-- ==== Sys2Proof/Word.lean ====
section
/-! DEFINITION. The unsigned quantities of the core (00_scope.md R9): nibble, byte, word, and the 8-byte block.
There are no signed quantities; lengths and indices are natural numbers. -/

namespace Sys2Proof

/-- 0 to 15 (R9): an entry of a substitution box. -/
abbrev Nibble := BitVec 4

/-- 0 to 255 (R9). -/
abbrev Byte := BitVec 8

/-- 0 to 2^32 - 1 (R9): halves of a block, subkeys, the value of F. Addition is modulo 2^32 (R11, R12). -/
abbrev Word := BitVec 32

/-- "Block: exactly 8 bytes" (R6 `BLOCK_BYTES`); also the shape of an initialization vector (R6 `IV_BYTES`). -/
abbrev Block := Vector Byte 8

end Sys2Proof
end

