-- ==== Sys2Proof/Syntax.lean ====
section
/-! DEFINITION. The eight commands of spec/opcode_table.json (30_encoding.md R81), one constructor each. A command has no
operand field: "The command byte carries no immediate, no register number and no length" (R83). -/

namespace Sys2Proof

inductive Instr where
  | init   -- INIT, 0x01, R113: construct the cipher context from the key in KEY
  | encb   -- ENCB, 0x02, R136: encrypt the block in (L, R) in place
  | decb   -- DECB, 0x03, R137: decrypt the block in (L, R) in place
  | ecbe   -- ECBE, 0x04, R166: pad IN, encrypt every block, into OUT
  | ecbd   -- ECBD, 0x05, R168: decrypt every block of IN, strip, into OUT
  | cbce   -- CBCE, 0x06, R184: CBC encryption with a drawn IV
  | cbcei  -- CBCEI, 0x07, R183: CBC encryption with the IV in buffer IV
  | cbcd   -- CBCD, 0x08, R186: CBC decryption
deriving DecidableEq, Repr

end Sys2Proof
end

