-- ==== Sys2Proof/Decode.lean ====
section
/-! DEFINITION. The command byte (30_encoding.md R80 to R84): decoder, encoder, and the encoding of a sequence of commands
(R93). There is one format, C: eight bits `OP`, all of which take part in decoding. -/

namespace Sys2Proof

/-- Why a byte is no command. -/
inductive DecodeError where
  | illegalCommand (op : Byte)  -- R82: `0x00` and `0x09` to `0xFF`
deriving DecidableEq, Repr

/-- R81, R84: "if c is one of `0x01` to `0x08`, the command is the row of rule R81; otherwise the command is illegal". -/
def decode (c : Byte) : Except DecodeError Instr :=
  match c with
  | 0x01#8 => .ok .init
  | 0x02#8 => .ok .encb
  | 0x03#8 => .ok .decb
  | 0x04#8 => .ok .ecbe
  | 0x05#8 => .ok .ecbd
  | 0x06#8 => .ok .cbce
  | 0x07#8 => .ok .cbcei
  | 0x08#8 => .ok .cbcd
  | c => .error (.illegalCommand c)

/-- The `OP` byte of a command (R81). -/
def encode : Instr → Byte
  | .init => 0x01#8
  | .encb => 0x02#8
  | .decb => 0x03#8
  | .ecbe => 0x04#8
  | .ecbd => 0x05#8
  | .cbce => 0x06#8
  | .cbcei => 0x07#8
  | .cbcd => 0x08#8

/-- The bytes a sequence of commands writes to CMD, in order (R93: "the sequence of bytes its `cmd` lines write"). -/
def encodeAll (is : List Instr) : List Byte := is.map encode

/-- The commands a sequence of CMD bytes issues, up to the first byte that is none (R80: every command is one byte). -/
def decodeAll : List Byte → Except DecodeError (List Instr)
  | [] => .ok []
  | c :: cs =>
    match decode c with
    | .error e => .error e
    | .ok i =>
      match decodeAll cs with
      | .error e => .error e
      | .ok is => .ok (i :: is)

/-- The command byte among the bits `w` of an opcode-table row of `nbits` bits: its low eight bits (log entry 11). -/
def tableByte (nbits w : Nat) : Byte := BitVec.ofNat 8 (w % 2 ^ nbits)

/-- What the decoder reads from the bits of an opcode-table row. -/
def decodeTableWord (nbits w : Nat) : Option Instr :=
  match decode (tableByte nbits w) with
  | .ok i => some i
  | .error _ => none

end Sys2Proof
end

