-- ==== Sys2Proof/Config.lean ====
section
/-! DEFINITION. What is fixed for one core and is no state (00_scope.md R6, R8; 10_state.md R22): the parameters the
source fixes, the shape of those it leaves open, and the answers of the random source.
The parameters of one core are carried in `State.params`; the default boxes (R7) stand in Machine/Params.lean. -/

namespace Sys2Proof.Config

/-! ### Parameters fixed by the source (R6) -/

/-- `BLOCK_BYTES` (R6). -/
@[simp] abbrev blockBytes : Nat := 8

/-- `KEY_BYTES` (R6). -/
@[simp] abbrev keyBytes : Nat := 32

/-- `IV_BYTES` (R6). -/
@[simp] abbrev ivBytes : Nat := 8

/-- `NROUNDS` (R6). -/
@[simp] abbrev nRounds : Nat := 32

/-- `ROT` (R6): the left rotation of the round function. -/
@[simp] abbrev rot : Nat := 11

/-- `MARKER` (R6): the byte that opens the padding. -/
@[simp] abbrev marker : Byte := 0x80#8

/-! ### Substitution boxes: the shape of parameter `SBOX` (R6 `NBOX`, R7, R32) -/

/-- One box: 16 entries of 4 bits. -/
abbrev Box := Vector Nibble 16

/-- The eight boxes `K1` to `K8`. -/
structure SBox where
  k1 : Box
  k2 : Box
  k3 : Box
  k4 : Box
  k5 : Box
  k6 : Box
  k7 : Box
  k8 : Box
deriving DecidableEq, Repr

/-- R6, R7 (a): "a permutation of 0..15". -/
def Box.isPermutation (b : Box) : Prop := ∀ v : Nibble, v ∈ b

/-- R7 (a) of all eight boxes. -/
def SBox.allPermutations (sb : SBox) : Prop :=
  Box.isPermutation sb.k1 ∧ Box.isPermutation sb.k2 ∧ Box.isPermutation sb.k3 ∧ Box.isPermutation sb.k4 ∧
  Box.isPermutation sb.k5 ∧ Box.isPermutation sb.k6 ∧ Box.isPermutation sb.k7 ∧ Box.isPermutation sb.k8

/-! ### The open parameters (R7, R8, R22; log entries 5 and 6) -/

/-- The parameters the source leaves open and every core fixes: "The model takes `SBOX` as an argument" (R7), and so the
capacities (R8). Which values are allowed is `Machine.Admissible`. -/
structure Params where
  /-- `SBOX` (R7). -/
  sbox : SBox
  /-- `KEY_CAP`: "OPEN: at least 32" (R8). -/
  keyCap : Nat
  /-- `IV_CAP`: "OPEN: at least 8" (R8). -/
  ivCap : Nat
  /-- `MAX_LEN`: "OPEN: any natural number at least 8, or unbounded" (R8); `none` is unbounded. -/
  maxLen : Option Nat
deriving DecidableEq, Repr

/-! ### The random source (R8, R22, 44_cbc.md R181; log entry 3) -/

/-- The answer of the random source to its draw number `n`: any 8 bytes, under no law. -/
opaque drawIv : Nat → Block

end Sys2Proof.Config
end

