-- ==== Sys2Proof/Machine/Params.lean ====
section
/-! DEFINITION. The default parameters of the core (00_scope.md R7, R8) and what a capacity admits. -/

namespace Sys2Proof.Machine

/-- The default of parameter `SBOX` (R7): "[from general knowledge, not in source]" (log entry 6). -/
def sbox : Config.SBox where
  k1 := #v[13#4, 2#4, 8#4, 4#4, 6#4, 15#4, 11#4, 1#4, 10#4, 9#4, 3#4, 14#4, 5#4, 0#4, 12#4, 7#4]
  k2 := #v[4#4, 11#4, 2#4, 14#4, 15#4, 0#4, 8#4, 13#4, 3#4, 12#4, 9#4, 7#4, 5#4, 10#4, 6#4, 1#4]
  k3 := #v[12#4, 1#4, 10#4, 15#4, 9#4, 2#4, 6#4, 8#4, 0#4, 13#4, 3#4, 4#4, 14#4, 7#4, 5#4, 11#4]
  k4 := #v[2#4, 12#4, 4#4, 1#4, 7#4, 10#4, 11#4, 6#4, 8#4, 5#4, 3#4, 15#4, 13#4, 0#4, 14#4, 9#4]
  k5 := #v[7#4, 13#4, 14#4, 3#4, 0#4, 6#4, 9#4, 10#4, 1#4, 2#4, 8#4, 5#4, 11#4, 12#4, 4#4, 15#4]
  k6 := #v[10#4, 0#4, 9#4, 14#4, 6#4, 3#4, 15#4, 5#4, 1#4, 13#4, 12#4, 7#4, 11#4, 4#4, 2#4, 8#4]
  k7 := #v[15#4, 1#4, 8#4, 14#4, 6#4, 11#4, 3#4, 4#4, 9#4, 7#4, 2#4, 13#4, 12#4, 0#4, 5#4, 10#4]
  k8 := #v[14#4, 4#4, 13#4, 1#4, 2#4, 15#4, 11#4, 8#4, 3#4, 10#4, 6#4, 12#4, 5#4, 9#4, 0#4, 7#4]

/-- The parameters of the core the model starts with: the default boxes, `MAX_LEN` unbounded, and capacities that let wrong
lengths of a key and an IV be presented (R8; log entry 5). -/
def defaultParams : Config.Params where
  sbox := sbox
  keyCap := 65536
  ivCap := 65536
  maxLen := none

/-- Capacity of OUT: "`MAX_LEN + 16`, so every result fits" (R8); `none` is unbounded. -/
def outCap (p : Config.Params) : Option Nat := p.maxLen.map (· + 16)

/-- `n` bytes fit a capacity; `none` is unbounded. -/
def fits (n : Nat) : Option Nat → Bool
  | none => true
  | some c => decide (n ≤ c)

end Sys2Proof.Machine
end

