-- ==== Sys2Proof/Machine/State.lean ====
section
/-! DEFINITION. The state of the core (10_state.md R21) as plain data, the actions of the host (R20), the error causes
(60_exceptions.md R200) and the reasons a step can stop. -/

namespace Sys2Proof.Machine

/-! ### Address spaces and names -/

/-- The four byte buffers (R34, R50). An address is a pair of a buffer and an offset (R14). -/
inductive Buf where
  | key | iv | inp | out
deriving DecidableEq, Repr

/-- What a host can name in a read (R93 `rd`, and CMD, whose read returns 0, R29). -/
inductive HostName where
  | status | err | cmd | l | r
  | keyLen | ivLen | inLen | outLen
  | key | iv | inp | out
deriving DecidableEq, Repr

/-- What a host read answers: 8 bits of STATUS, ERR or CMD, a word of L or R, a length, or a buffer's bytes. -/
inductive Answer where
  | byte (b : Byte)
  | word (w : Word)
  | length (n : Nat)
  | bytes (bs : List Byte)
deriving DecidableEq, Repr

/-- One action of the host (R20: "writes `KEY`, `IV`, `IN`, `L`, `R` and `CMD`, reads everything host-readable, and may
assert reset"). Writes of STATUS and ERR exist and are ignored (R27, R28). -/
inductive HostAction where
  | reset
  | writeKey (bs : List Byte)
  | writeIv (bs : List Byte)
  | writeIn (bs : List Byte)
  | writeL (w : Word)
  | writeR (w : Word)
  | writeStatus (b : Byte)
  | writeErr (b : Byte)
  | writeCmd (c : Byte)
  | read (n : HostName)
deriving DecidableEq, Repr

/-- The seven error causes (R200). An error is an ordinary next state, never a stop: "an error never stops, locks or resets
the core" (R206). -/
inductive Error where
  | invalidKeySize      -- R201, raised by INIT
  | emptyInput          -- R202, raised by ECBE, ECBD, CBCE, CBCEI
  | invalidIVSize       -- R203, raised by CBCEI
  | ciphertextTooShort  -- R204, raised by CBCD
  | noContext           -- R210, raised by every command but INIT
  | badLength           -- R211, raised by ECBD, CBCD
  | illegalCommand      -- R212, raised by a CMD byte that is no command
deriving DecidableEq, Repr

/-! ### Why a step can stop -/

/-- The faults of the machine. -/
inductive Fault where
  /-- Raised by the shared read operations of Machine/Ops.lean when an access reaches past the end of a byte sequence, where
  `MemRead` is not defined (R14). No command does it: every offset is inside by construction (R52, R54). Safe. -/
  | outOfBounds
deriving DecidableEq, Repr

/-- The refusals of the machine. -/
inductive Refusal where
  /-- Raised by hostStep for a host write of a buffer longer than its capacity, which "cannot be presented" (R34); the spec
  has a model refuse it (93_implementation_defined.md U9). No command raises it. Safe. -/
  | cannotBePresented
  /-- Raised by exec for an instruction without a meaning. No arm of this model raises it. Safe. -/
  | notModelled (mnemonic : String)
deriving DecidableEq, Repr

/-- What a step, a meaning or a host action answers. -/
abbrev Outcome (σ : Type) := Host.Outcome σ Fault Refusal

/-! ### The state -/

/-- A derived table: 256 entries of 8 bits (R33). -/
structure Table where
  entries : List Byte
  length_eq : entries.length = 256
deriving DecidableEq, Repr

/-- The four derived tables `T1` to `T4` (R33). -/
structure Tables where
  t1 : Table
  t2 : Table
  t3 : Table
  t4 : Table
deriving DecidableEq, Repr

/-- The eight subkey registers `K[0]` to `K[7]` (R23). -/
abbrev Subkeys := Vector Word 8

/-- The record of R21, and after it the model's own fields: the parameters of the core, which R22 makes parameters of
the step relation, and three for the two agents outside the core (R20). -/
structure State where
  /-- `K[0..7]` (R23); written by INIT and reset; no host access. -/
  k : Subkeys
  /-- `T1..T4` (R33); written by INIT; no host access. -/
  tables : Tables
  /-- `STATUS.CTX` (R27): the context is valid; state READY when true, UNCONFIGURED when false (R215). -/
  ctx : Bool
  /-- `ERR` (R28). -/
  err : Byte
  /-- `L` (R24). -/
  l : Word
  /-- `R` (R24). -/
  r : Word
  /-- `KEY` (R34). -/
  keyBuf : List Byte
  /-- `IV` (R34). -/
  ivBuf : List Byte
  /-- `IN` (R34). -/
  inBuf : List Byte
  /-- `OUT` (R34). -/
  outBuf : List Byte
  /-- The MODEL's own: the parameters of this core (R7, R8, R22); nothing changes them (log entries 5 and 6). -/
  params : Config.Params
  /-- The MODEL's own: the host's actions still to come, oldest first (log entry 1). -/
  pending : List HostAction
  /-- The MODEL's own: how many draws the random source has answered (log entry 3). -/
  draws : Nat
  /-- The MODEL's own: what the host's latest read answered; `none` before the first read (log entry 7). -/
  answer : Option Answer
deriving DecidableEq, Repr

/-! ### Reset (R37, R230) -/

/-- A table of zero bytes: the named value of `T1..T4` after reset, which R37 leaves unspecified (log entry 4). -/
def Table.zero : Table := ⟨List.replicate 256 0#8, List.length_replicate⟩

/-- The state right after reset (R37) of the core with parameters `p`. The tables' value is log entry 4; the last four fields
are the model's own. -/
def State.resetWith (p : Config.Params) : State where
  k := Vector.replicate 8 0#32
  tables := ⟨Table.zero, Table.zero, Table.zero, Table.zero⟩
  ctx := false
  err := 0#8
  l := 0#32
  r := 0#32
  keyBuf := []
  ivBuf := []
  inBuf := []
  outBuf := []
  params := p
  pending := []
  draws := 0
  answer := none

/-- The state right after reset (R37) of the core with the default parameters. -/
def State.reset : State := State.resetWith defaultParams

end Sys2Proof.Machine
end

