-- ==== Sys2Proof/Machine/Flags.lean ====
section
/-! DEFINITION. ERR and STATUS: the numeric error codes (60_exceptions.md R200) and the STATUS view (10_state.md R27). The
core has no arithmetic flags (R27). -/

namespace Sys2Proof.Machine

/-- The number of an error cause in ERR (R200). -/
def errorCode : Error → Byte
  | .invalidKeySize => 1#8
  | .emptyInput => 2#8
  | .invalidIVSize => 3#8
  | .ciphertextTooShort => 4#8
  | .noContext => 5#8
  | .badLength => 6#8
  | .illegalCommand => 7#8

/-- ERR after a command that succeeded (R28, R200). -/
def successCode : Byte := 0#8

/-- `STATUS.ERRF` (R27): "1 exactly when `ERR` is not 0; a read-only view of `ERR`, not separate state". -/
def State.errf (s : State) : Bool := s.err != successCode

/-- `STATUS` (R27): bit 0 `CTX`, bit 1 `ERRF`, bits 7:2 read as 0. -/
def State.status (s : State) : Byte := 0#6 ++ BitVec.ofBool s.errf ++ BitVec.ofBool s.ctx

end Sys2Proof.Machine
end

