-- ==== Sys2Proof/Machine/Operands.lean ====
section
/-! DEFINITION. The conversions between bytes and words (00_scope.md R10 to R13, 20_memory.md R55 to R58), the rotation, and
the bytewise exclusive or of blocks. Every operand of a command is implicit (30_encoding.md R83): these are all the operand
forms there are. -/

namespace Sys2Proof.Machine

/-- `rotl32(w, n)` for 0 < n < 32 (R11). -/
def rotl32 (w : Word) (n : Nat) : Word := (w <<< n) ||| (w >>> (32 - n))

/-- `w[31:24]` (R10); the source's byte 0. -/
def byte3 (w : Word) : Byte := w.extractLsb' 24 8

/-- `w[23:16]` (R10); the source's byte 1. -/
def byte2 (w : Word) : Byte := w.extractLsb' 16 8

/-- `w[15:8]` (R10); the source's byte 2. -/
def byte1 (w : Word) : Byte := w.extractLsb' 8 8

/-- `w[7:0]` (R10); the source's byte 3. -/
def byte0 (w : Word) : Byte := w.extractLsb' 0 8

/-- The word with `a` in bits 31:24, `b` in 23:16, `c` in 15:8, `d` in 7:0: `(a << 24) | (b << 16) | (c << 8) | d`. -/
def wordOfBytes (a b c d : Byte) : Word := a ++ b ++ c ++ d

/-- `le32(s)` of the 4-byte sequence `s0 s1 s2 s3` (R13): first byte least significant. -/
def le32 (s0 s1 s2 s3 : Byte) : Word := wordOfBytes s3 s2 s1 s0

/-- `BlockIn(s)` (R56): `(left, right)`, little-endian, left half first. -/
def blockIn (s : Block) : Word × Word := (le32 s[0] s[1] s[2] s[3], le32 s[4] s[5] s[6] s[7])

/-- `BlockOut(left, right) = bytes_le32(left) ++ bytes_le32(right)` (R13, R56). -/
def blockOut (p : Word × Word) : Block :=
  #v[byte0 p.1, byte1 p.1, byte2 p.1, byte3 p.1, byte0 p.2, byte1 p.2, byte2 p.2, byte3 p.2]

/-- `xor8(s, t)` (R11): bytewise exclusive or of two 8-byte sequences. -/
def xor8 (s t : Block) : Block :=
  #v[s[0] ^^^ t[0], s[1] ^^^ t[1], s[2] ^^^ t[2], s[3] ^^^ t[3],
     s[4] ^^^ t[4], s[5] ^^^ t[5], s[6] ^^^ t[6], s[7] ^^^ t[7]]

/-- The bytes of a sequence of blocks, in order (R90). -/
def joinBlocks (bs : List Block) : List Byte := bs.flatMap Vector.toList

end Sys2Proof.Machine
end

