-- ==== Sys2Proof/Machine/Ops.lean ====
section
/-! DEFINITION. The named operations over buffers and registers, and how a command ends: the access primitives
(20_memory.md R53, R54), the register writes, `raise E` (60_exceptions.md R206) and the successful end, and reset. -/

namespace Sys2Proof.Machine

/-! ### Buffers -/

/-- The content of a buffer (R34); its length view is the list's length (R30). -/
def State.buffer (s : State) : Buf → List Byte
  | .key => s.keyBuf
  | .iv => s.ivBuf
  | .inp => s.inBuf
  | .out => s.outBuf

/-- The byte at the address `b+off`; `none` at or past the buffer's length. -/
def State.readByte (s : State) (b : Buf) (off : Nat) : Option Byte := (s.buffer b)[off]?

/-- The (offset, byte) cells of a byte sequence (log entry 9). -/
def cellsOf (bs : List Byte) : List Host.Cell := bs.zipIdx.map fun p => (p.2, p.1)

/-- The canonical form of a list of cells: offsets strictly rising. An unlisted offset reads as no byte (log entry 9). -/
abbrev Memory.wf (cells : List Host.Cell) : Prop := cells.Pairwise fun a b => a.1 < b.1

/-- `MemRead(buf+off, n)` (R53): the bytes at offsets off to off+n-1; "defined only when `off + n <= len(BUF)`" (R14). -/
def memRead (buf : List Byte) (off n : Nat) : Option (Vector Byte n) :=
  if h : off + n ≤ buf.length then
    some ⟨((buf.drop off).take n).toArray, by simp; omega⟩
  else none

/-- The `nb` blocks of `buf` at `off`, `off + 8`, ... (R54: the effective addresses `off + 8*b`). -/
def readBlocks (buf : List Byte) (off : Nat) : Nat → Option (List Block)
  | 0 => some []
  | nb + 1 =>
    match memRead buf off Config.blockBytes, readBlocks buf (off + Config.blockBytes) nb with
    | some x, some xs => some (x :: xs)
    | _, _ => none

/-- `MemWrite(OUT+off, n, bs)` with `n = len(bs)` (R53), inside the buffer. -/
def memWrite (buf : List Byte) (off : Nat) (bs : List Byte) : Option (List Byte) :=
  if off + bs.length ≤ buf.length then
    some (buf.take off ++ bs ++ buf.drop (off + bs.length))
  else none

/-- Runs a command's rest on the bytes it reads; an access past the end is the fault `outOfBounds` (log entry 10). -/
def withRead {α : Type} (x : Option α) (rest : α → Outcome State) : Outcome State :=
  match x with
  | some a => rest a
  | none => .fault .outOfBounds

/-! ### Register and buffer writes -/

/-- INIT's write of the context: `K[0..7]`, `T1..T4`, `STATUS.CTX <- 1` (R113). -/
def State.setContext (s : State) (k : Subkeys) (t : Tables) : State := { s with k := k, tables := t, ctx := true }

/-- `L <- p.1 ; R <- p.2`, both at once (R136). -/
def State.setLR (s : State) (p : Word × Word) : State := { s with l := p.1, r := p.2 }

/-- `OUT <- bs` (R53): content and length together. -/
def State.setOut (s : State) (bs : List Byte) : State := { s with outBuf := bs }

/-- `ERR <- c` (R28). -/
def State.setErr (s : State) (c : Byte) : State := { s with err := c }

/-- A host write of `KEY` (R34): replaces the whole sequence. -/
def State.setKey (s : State) (bs : List Byte) : State := { s with keyBuf := bs }

/-- A host write of `IV` (R34). -/
def State.setIv (s : State) (bs : List Byte) : State := { s with ivBuf := bs }

/-- A host write of `IN` (R34). -/
def State.setIn (s : State) (bs : List Byte) : State := { s with inBuf := bs }

/-- A host write of `L` (R24): "does not affect the other". -/
def State.setL (s : State) (w : Word) : State := { s with l := w }

/-- A host write of `R` (R24). -/
def State.setR (s : State) (w : Word) : State := { s with r := w }

/-- The answer of a host read, in the model's own field. -/
def State.setAnswer (s : State) (a : Answer) : State := { s with answer := some a }

/-- The host's actions still to come. -/
def State.setPending (s : State) (as : List HostAction) : State := { s with pending := as }

/-! ### The random source (R181) -/

/-- The 8 bytes `DrawIV()` returns in state `s`: a free value. -/
def State.drawnIv (s : State) : Block := Config.drawIv s.draws

/-- The random source has answered one more draw. -/
def State.countDraw (s : State) : State := { s with draws := s.draws + 1 }

/-! ### How a command ends -/

/-- `raise E` (R206): "the command ends; `ERR <- code(E)`; nothing else changes". There is no saved state, no vector, no
handler and no return from an error (R206, R207): the next command starts clean. -/
def raiseError (e : Error) (s : State) : Outcome State := .next (s.setErr (errorCode e))

/-- The successful end of a command: `ERR <- 0` (R28). -/
def complete (s : State) : Outcome State := .next (s.setErr successCode)

/-- One test of a command (R213): if it fails the command raises `e`, and no later line runs. -/
def require (ok : Bool) (e : Error) (s : State) (rest : Outcome State) : Outcome State :=
  if ok then rest else raiseError e s

/-- The test every command but INIT begins with (R210): `STATUS.CTX = 1`, else `NoContext`. -/
def requireContext (s : State) (rest : Outcome State) : Outcome State := require s.ctx .noContext s rest

/-! ### Reset (R230) -/

/-- Asserting and releasing reset: the core takes the state of R37. The parameters are no state and stay (R22); the host's
later actions, the random source and the answer the host has already read are outside the core and stay (log entries 1, 3,
7). -/
def resetCore (s : State) : State :=
  { State.resetWith s.params with pending := s.pending, draws := s.draws, answer := s.answer }

end Sys2Proof.Machine
end

