-- ==== Sys2Proof/Machine/Tables.lean ====
section
/-! DEFINITION. The Table Builder (40_init.md R110) and the reading of a derived table. -/

namespace Sys2Proof.Machine

/-- `Kn[j]` (R14). -/
def boxEntry (b : Config.Box) (j : Nibble) : Nibble := b[j.toNat]

/-- One table entry (R88): the high nibble `j[7:4]` through `boxHigh` gives bits 7:4, the low nibble through `boxLow` bits
3:0. -/
def tableEntry (boxHigh boxLow : Config.Box) (j : Byte) : Byte :=
  boxEntry boxHigh (j.extractLsb' 4 4) ++ boxEntry boxLow (j.extractLsb' 0 4)

/-- One derived table: every byte value 0 to 255 in order (R110). -/
def tableOf (boxHigh boxLow : Config.Box) : Table where
  entries := (List.range 256).map fun j => tableEntry boxHigh boxLow (BitVec.ofNat 8 j)
  length_eq := by simp

/-- `TableBuild(SBOX)` (R110): the box pairs (K8,K7), (K6,K5), (K4,K3), (K2,K1). -/
def tableBuild (sb : Config.SBox) : Tables where
  t1 := tableOf sb.k8 sb.k7
  t2 := tableOf sb.k6 sb.k5
  t3 := tableOf sb.k4 sb.k3
  t4 := tableOf sb.k2 sb.k1

/-- `Tn[j]` (R14). -/
def Table.get (t : Table) (j : Byte) : Byte := t.entries[j.toNat]'(t.length_eq.symm ▸ j.isLt)

end Sys2Proof.Machine
end

