-- ==== Sys2Proof/Machine/Feistel.lean ====
section
/-! DEFINITION. The round function F, the Feistel core, and commands ENCB and DECB (41_feistel.md R130 to R137). -/

namespace Sys2Proof.Machine

/-- `F(T, x)` (R130): four table reads, most significant byte through `T1`, then the rotation left by 11. -/
def roundF (t : Tables) (x : Word) : Word :=
  rotl32 (wordOfBytes (t.t1.get (byte3 x)) (t.t2.get (byte2 x)) (t.t3.get (byte1 x)) (t.t4.get (byte0 x))) Config.rot

/-- `Round(i, sk)` (R131) on the pair `(n1, n2)`: odd rounds update `n2`, even rounds `n1`. -/
def feistelRound (t : Tables) (i : Nat) (sk : Word) (n : Word × Word) : Word × Word :=
  if i % 2 = 1 then (n.1, n.2 ^^^ roundF t (n.1 + sk))
  else (n.1 ^^^ roundF t (n.2 + sk), n.2)

/-- `ENCSEQ(i)` (R132): `(i - 1) mod 8` for i in 1 to 24 and `32 - i` for i in 25 to 32. -/
def encSeq (i : Nat) : Fin 8 := Fin.ofNat 8 (if i ≤ 24 then i - 1 else 32 - i)

/-- `DECSEQ(i)` (R132): `i - 1` for i in 1 to 8 and `(32 - i) mod 8` for i in 9 to 32. -/
def decSeq (i : Nat) : Fin 8 := Fin.ofNat 8 (if i ≤ 8 then i - 1 else 32 - i)

/-- `for i in 1 to 32: Round(i, k[seq(i)])` (R133, R134). -/
def feistelRounds (k : Subkeys) (t : Tables) (seq : Nat → Fin 8) (n : Word × Word) : Word × Word :=
  (List.range' 1 Config.nRounds).foldl (fun n i => feistelRound t i k[seq i] n) n

/-- `Encrypt(k, T, left, right)` (R133): the output pair is `(n2, n1)`. -/
def encrypt (k : Subkeys) (t : Tables) (p : Word × Word) : Word × Word := (feistelRounds k t encSeq p).swap

/-- `Decrypt(k, T, left, right)` (R134): the same with the reversed subkey order. -/
def decrypt (k : Subkeys) (t : Tables) (p : Word × Word) : Word × Word := (feistelRounds k t decSeq p).swap

/-- One block of a buffer through `BlockIn`, `Encrypt`, `BlockOut` (R165). -/
def encryptBlock (k : Subkeys) (t : Tables) (x : Block) : Block := blockOut (encrypt k t (blockIn x))

/-- One block of a buffer through `BlockIn`, `Decrypt`, `BlockOut` (R165). -/
def decryptBlock (k : Subkeys) (t : Tables) (x : Block) : Block := blockOut (decrypt k t (blockIn x))

/-- ENCB (R136): both registers are read before either is written. -/
def execEncb (s : State) : Outcome State :=
  requireContext s <|
  complete (s.setLR (encrypt s.k s.tables (s.l, s.r)))

/-- DECB (R137). -/
def execDecb (s : State) : Outcome State :=
  requireContext s <|
  complete (s.setLR (decrypt s.k s.tables (s.l, s.r)))

end Sys2Proof.Machine
end

