-- ==== Sys2Proof/Machine/Padding.lean ====
section
/-! DEFINITION. The padding scheme (42_padding.md R150 to R153). -/

namespace Sys2Proof.Machine

/-- `AlignToBlock(s)` (R150): nothing on an aligned sequence, else the marker and zeros. -/
def alignToBlock (s : List Byte) : List Byte :=
  let r := s.length % Config.blockBytes
  if r = 0 then s
  else s ++ Config.marker :: List.replicate (Config.blockBytes - r - 1) 0#8

/-- The backward scan of R151 over a sequence given last byte first; the index of a byte is the number of bytes before it. -/
def scanBack : List Byte → Option Nat
  | [] => none
  | b :: before =>
    if b = 0#8 then scanBack before
    else if b = Config.marker then some before.length
    else none

/-- `PaddingIndex(s)` (R151): over the whole buffer, index 0 included; `none` on an all-zero buffer (R153). -/
def paddingIndex (s : List Byte) : Option Nat := scanBack s.reverse

/-- `Strip(s)` (R152): the marker and everything after it are dropped. -/
def strip (s : List Byte) : List Byte :=
  match paddingIndex s with
  | none => s
  | some p => s.take p

end Sys2Proof.Machine
end

