-- ==== Sys2Proof/Machine/Cbc.lean ====
section
/-! DEFINITION. CBC mode: commands CBCE, CBCEI and CBCD (44_cbc.md R180 to R186). -/

namespace Sys2Proof.Machine

/-- The loop of `CbcEnc` (R182): each block is combined with the previous ciphertext block, then encrypted. -/
def cbcChain (k : Subkeys) (t : Tables) (prev : Block) : List Block → List Block
  | [] => []
  | p :: ps =>
    let c := encryptBlock k t (xor8 p prev)
    c :: cbcChain k t c ps

/-- `CbcEnc(k, T, P', iv)` (R182) on the blocks of `P'`: the IV in clear, then the ciphertext blocks. -/
def cbcEnc (k : Subkeys) (t : Tables) (ps : List Block) (iv : Block) : List Byte :=
  joinBlocks (iv :: cbcChain k t iv ps)

/-- The loop of `CbcDec` (R185): each block is decrypted, then combined with the previous ciphertext block. -/
def cbcUnchain (k : Subkeys) (t : Tables) (prev : Block) : List Block → List Block
  | [] => []
  | c :: cs => xor8 (decryptBlock k t c) prev :: cbcUnchain k t c cs

/-- `CbcDec(k, T, C)` (R185) on the IV `C[0, 8)` and the blocks after it. -/
def cbcDec (k : Subkeys) (t : Tables) (iv : Block) (cs : List Block) : List Byte :=
  joinBlocks (cbcUnchain k t iv cs)

/-- What CBCEI and CBCE share once the IV is known (R183, R184): the empty test, then pad, encrypt, `OUT <- CbcEnc(...)`. -/
def cbcEncryptInput (iv : Block) (s : State) : Outcome State :=
  require (s.inBuf.length != 0) .emptyInput s <|
  let padded := alignToBlock (s.buffer .inp)
  withRead (readBlocks padded 0 (padded.length / Config.blockBytes)) fun ps =>
  complete (s.setOut (cbcEnc s.k s.tables ps iv))

/-- CBCE (R184): the IV is drawn from the random source, before the empty test (90_conflicts.md C4; log entry 3). -/
def execCbce (s : State) : Outcome State :=
  requireContext s <|
  cbcEncryptInput s.drawnIv s.countDraw

/-- CBCEI (R183): the IV is read from buffer `IV`; its length is tested before the input's (90_conflicts.md C3). -/
def execCbcei (s : State) : Outcome State :=
  requireContext s <|
  require (s.ivBuf.length == Config.ivBytes) .invalidIVSize s <|
  withRead (memRead (s.buffer .iv) 0 8) fun iv =>
  cbcEncryptInput iv s

/-- CBCD (R186): the IV is `IN[0, 8)`, the blocks follow at `IN + 8 + 8*b`. -/
def execCbcd (s : State) : Outcome State :=
  requireContext s <|
  require (decide (8 < s.inBuf.length)) .ciphertextTooShort s <|
  require ((s.inBuf.length - 8) % Config.blockBytes == 0) .badLength s <|
  withRead (memRead (s.buffer .inp) 0 8) fun iv =>
  withRead (readBlocks (s.buffer .inp) 8 ((s.inBuf.length - 8) / Config.blockBytes)) fun cs =>
  complete (s.setOut (strip (cbcDec s.k s.tables iv cs)))

end Sys2Proof.Machine
end

