-- ==== Sys2Proof/Machine/Ecb.lean ====
section
/-! DEFINITION. ECB mode: commands ECBE and ECBD (43_ecb.md R165 to R168). -/

namespace Sys2Proof.Machine

/-- ECBE (R166): pad, encrypt every block, `OUT <- C`. -/
def execEcbe (s : State) : Outcome State :=
  requireContext s <|
  require (s.inBuf.length != 0) .emptyInput s <|
  let padded := alignToBlock (s.buffer .inp)
  withRead (readBlocks padded 0 (padded.length / Config.blockBytes)) fun ps =>
  complete (s.setOut (joinBlocks (ps.map (encryptBlock s.k s.tables))))

/-- ECBD (R168): decrypt every block, strip the padding, `OUT <- Strip(P')`. -/
def execEcbd (s : State) : Outcome State :=
  requireContext s <|
  require (s.inBuf.length != 0) .emptyInput s <|
  require (s.inBuf.length % Config.blockBytes == 0) .badLength s <|
  withRead (readBlocks (s.buffer .inp) 0 (s.inBuf.length / Config.blockBytes)) fun cs =>
  complete (s.setOut (strip (joinBlocks (cs.map (decryptBlock s.k s.tables)))))

end Sys2Proof.Machine
end

