-- ==== Sys2Proof/Machine/Init.lean ====
section
/-! DEFINITION. The Key Scheduler (40_init.md R111) and command INIT (R113, R114). -/

namespace Sys2Proof.Machine

/-- Subkey `i` of a 32-byte key: `le32(s[4*i, 4*i+4))` (R55, R111). -/
def subkey (s : Vector Byte 32) (i : Fin 8) : Word :=
  le32 s[4 * i.val] s[4 * i.val + 1] s[4 * i.val + 2] s[4 * i.val + 3]

/-- `KeySchedule(s)` (R111). -/
def keySchedule (s : Vector Byte 32) : Subkeys :=
  #v[subkey s 0, subkey s 1, subkey s 2, subkey s 3, subkey s 4, subkey s 5, subkey s 6, subkey s 7]

/-- INIT (R113): the one command allowed in UNCONFIGURED. On a READY core it replaces the context (R114). -/
def execInit (s : State) : Outcome State :=
  require (s.keyBuf.length == Config.keyBytes) .invalidKeySize s <|
  withRead (memRead (s.buffer .key) 0 32) fun keyBytes =>
  complete (s.setContext (keySchedule keyBytes) (tableBuild s.params.sbox))

end Sys2Proof.Machine
end

