-- ==== Sys2Proof/Machine/HostPort.lean ====
section
/-! DEFINITION. The host's port: what each host action does to the core (10_state.md R20, R24, R27 to R30, R34;
30_encoding.md R82, R84), and the notation of host programs (R93, R94). -/

namespace Sys2Proof.Machine

/-- What a host read of a name answers. A read has no side effect on the core (R53). -/
def hostRead (s : State) : HostName → Answer
  | .status => .byte s.status
  | .err => .byte s.err
  | .cmd => .byte 0#8
  | .l => .word s.l
  | .r => .word s.r
  | .keyLen => .length (s.buffer .key).length
  | .ivLen => .length (s.buffer .iv).length
  | .inLen => .length (s.buffer .inp).length
  | .outLen => .length (s.buffer .out).length
  | .key => .bytes (s.buffer .key)
  | .iv => .bytes (s.buffer .iv)
  | .inp => .bytes (s.buffer .inp)
  | .out => .bytes (s.buffer .out)

/-- The event "issue command c" (R29): the command of R81, or `IllegalCommand`, tested before everything else (R212). -/
def issueCommand (c : Byte) (s : State) : Outcome State :=
  match decode c with
  | .ok i => exec i s
  | .error _ => raiseError .illegalCommand s

/-- R34: "a sequence longer than the capacity cannot be presented". -/
def HostAction.presentable (p : Config.Params) : HostAction → Bool
  | .reset => true
  | .writeKey bs => fits bs.length (some p.keyCap)
  | .writeIv bs => fits bs.length (some p.ivCap)
  | .writeIn bs => fits bs.length p.maxLen
  | .writeL _ => true
  | .writeR _ => true
  | .writeStatus _ => true
  | .writeErr _ => true
  | .writeCmd _ => true
  | .read _ => true

/-- What a host action that can be presented does. -/
def hostEffect (a : HostAction) (s : State) : Outcome State :=
  match a with
  | .reset => .next (resetCore s)
  | .writeKey bs => .next (s.setKey bs)
  | .writeIv bs => .next (s.setIv bs)
  | .writeIn bs => .next (s.setIn bs)
  | .writeL w => .next (s.setL w)
  | .writeR w => .next (s.setR w)
  | .writeStatus _ => .next s
  | .writeErr _ => .next s
  | .writeCmd c => issueCommand c s
  | .read n => .next (s.setAnswer (hostRead s n))

/-- One host action, to its end (R61, R62); a write that cannot be presented is refused (U9). -/
def hostStep (a : HostAction) (s : State) : Outcome State :=
  if a.presentable s.params then hostEffect a s else .refused .cannotBePresented

/-- The next host action, or, with none to come, the core waits (R230; log entry 1). -/
def runPending (s : State) : Outcome State :=
  match s.pending with
  | [] => .next s
  | a :: rest => hostStep a (s.setPending rest)

/-- The host issues the command byte `c` next: the CMD write that comes before every other action. -/
def issueNext (c : Byte) (s : State) : State := s.setPending (.writeCmd c :: s.pending)

/-! ### Host programs (R93, R94) -/

/-- One line of a host program. -/
inductive ProgramLine where
  | act (a : HostAction)         -- `reset`, `wr`, `rd`, `cmd 0x..`
  | cmd (i : Instr)              -- `cmd <MNEMONIC>`
  | initt (text : List Byte)     -- `INITT "<text>"`, the text's raw bytes (R94 (a))
  | release                      -- `RELEASE` (R94 (b))
deriving DecidableEq, Repr

/-- The host actions a line stands for (R93, R94). -/
def lineActions : ProgramLine → List HostAction
  | .act a => [a]
  | .cmd i => [.writeCmd (encode i)]
  | .initt text => [.writeKey text, .writeCmd (encode .init)]
  | .release => [.reset]

/-- The host actions of a program, in order. -/
def programActions (p : List ProgramLine) : List HostAction := p.flatMap lineActions

/-- The CMD byte an action writes, if it writes one. -/
def cmdByte : HostAction → Option Byte
  | .writeCmd c => some c
  | .reset => none
  | .writeKey _ => none
  | .writeIv _ => none
  | .writeIn _ => none
  | .writeL _ => none
  | .writeR _ => none
  | .writeStatus _ => none
  | .writeErr _ => none
  | .read _ => none

/-- R93: "The "encoding" of a program is the sequence of bytes its `cmd` lines write to `CMD`". -/
def programEncoding (p : List ProgramLine) : List Byte := (programActions p).filterMap cmdByte

end Sys2Proof.Machine
end

