-- ==== Sys2Proof/Machine/Step.lean ====
section
/-! DEFINITION. One step of the machine: one action of the host (10_state.md R20), and how the host's command byte is placed
next. -/

namespace Sys2Proof.Machine

/-- "one step per host action, one step per command" (R20). -/
def step (s : State) : Host.Outcome State Fault Refusal := runPending s

/-- `s` with the command byte of an opcode-table row as the host's next action (log entry 2). -/
def State.withFetchWord (s : State) (nbits w : Nat) : State := issueNext (tableByte nbits w) s

end Sys2Proof.Machine
end

