-- ==== Sys2Proof/WellFormed.lean ====
section
/-! DEFINITION. Which instructions and which host programs are well formed. A command has no operand, so every command is
(30_encoding.md R80, R83); a line of a host program is when the bytes it writes fit the buffer's capacity (10_state.md
R34). -/

namespace Sys2Proof

/-- Every command is well formed: it has no operand field (R83). -/
def Instr.wellFormed : Instr → Bool
  | .init => true
  | .encb => true
  | .decb => true
  | .ecbe => true
  | .ecbd => true
  | .cbce => true
  | .cbcei => true
  | .cbcd => true

namespace Machine

/-- A line of a host program is well formed for a core when each of its actions can be presented (R34, R93, R94). -/
def ProgramLine.wellFormed (p : Config.Params) (line : ProgramLine) : Bool :=
  (lineActions line).all (HostAction.presentable p)

/-- A host program is well formed when each of its lines is. -/
def programWellFormed (p : Config.Params) (program : List ProgramLine) : Bool :=
  program.all (ProgramLine.wellFormed p)

end Machine

end Sys2Proof
end

