-- ==== Sys2Proof/Safety.lean ====
section
/-! DEFINITION. Which parameters a core can have (00_scope.md R7, R8), what counts as a state the core can be in (10_state.md
R21, R23, R27, R28, R33, R34, R37), and how a command ends. -/

namespace Sys2Proof.Machine

/-- R7 (b): "with the key and blocks of the worked example" the Feistel core reproduces the source's known vectors S1 and S2
(their decryptions follow, R135 (a)). -/
def ReproducesBlockVectors (sb : Config.SBox) : Prop :=
  encrypt #v[0#32, 1#32, 2#32, 3#32, 4#32, 5#32, 6#32, 7#32] (tableBuild sb) (0#32, 0#32) =
    (0x37EF7123#32, 0x361B7184#32) ∧
  encrypt #v[0#32, 1#32, 2#32, 3#32, 4#32, 5#32, 6#32, 7#32] (tableBuild sb) (0xFFFFFFFF#32, 0xFFFFFFFF#32) =
    (0xF9709623#32, 0x56AD8D77#32)

/-- The parameters the spec allows a core. -/
structure Admissible (p : Config.Params) : Prop where
  /-- R7 (a). -/
  boxes_permute : p.sbox.allPermutations
  /-- R7 (b). -/
  boxes_reproduce : ReproducesBlockVectors p.sbox
  /-- R8: `KEY_CAP` is at least 32. -/
  key_cap : 32 ≤ p.keyCap
  /-- R8: `IV_CAP` is at least 8. -/
  iv_cap : 8 ≤ p.ivCap
  /-- R8: `MAX_LEN`, where bounded, is at least 8. -/
  max_len : ∀ m, p.maxLen = some m → 8 ≤ m

/-- The promises of 10_state.md about every state of the core. -/
structure State.Inv (s : State) : Prop where
  /-- R7, R8: the core's parameters are allowed ones. -/
  params_admissible : Admissible s.params
  /-- R28: "legal values 0 to 7, values 8 to 255 never appear". -/
  err_legal : s.err.toNat ≤ 7
  /-- R21, R34: `KEY` holds at most `KEY_CAP` bytes. -/
  key_fits : fits s.keyBuf.length (some s.params.keyCap) = true
  /-- R21, R34: `IV` holds at most `IV_CAP` bytes. -/
  iv_fits : fits s.ivBuf.length (some s.params.ivCap) = true
  /-- R21, R34: `IN` holds at most `MAX_LEN` bytes. -/
  in_fits : fits s.inBuf.length s.params.maxLen = true
  /-- R8, R21, R34: `OUT` holds at most `MAX_LEN + 16` bytes, "so every result fits". -/
  out_fits : fits s.outBuf.length (outCap s.params) = true
  /-- R27, R33, R112 (d): a valid context has the tables the Table Builder makes of the core's boxes. -/
  tables_built : s.ctx = true → s.tables = tableBuild s.params.sbox
  /-- R23, R37: without a context no subkey holds key material. -/
  no_key_material : s.ctx = false → s.k = Vector.replicate 8 0#32

/-- How command `i` ends in state `s` (R206, R213): in a next state with this code in ERR and, if the code reports an error,
with nothing else changed but the model's own count of draws (log entry 3). -/
def EndsWith (i : Instr) (s : State) (code : Byte) : Prop :=
  ∃ t, exec i s = .next t ∧ t.err = code ∧ (code ≠ 0#8 → t = { s with err := code, draws := t.draws })

end Sys2Proof.Machine
end

