-- ==== Sys2Proof/Certificates/Slice0/Obligations.lean ====
section
/-! DEFINITION. The statements for the provers. Each docstring names the rule of spec/ it formalises; a clause that rests on
a choice of the model names its log entry. `Config.drawIv` is a free value: no statement rests on what it answers. Every
statement holds for every parameters of the core (`State.params`: boxes and capacities), the default ones named apart. -/

open Sys2Proof Sys2Proof.Machine

/-! ### Encoding -/

/-- R81: the opcode map, every row written out bit by bit; and the first bytes that select no command on either side of it. -/
def Obligations.WrittenOutCommandBytesDecode : Prop :=
  decode 0b00000001#8 = .ok .init ∧ decode 0b00000010#8 = .ok .encb ∧ decode 0b00000011#8 = .ok .decb ∧
  decode 0b00000100#8 = .ok .ecbe ∧ decode 0b00000101#8 = .ok .ecbd ∧ decode 0b00000110#8 = .ok .cbce ∧
  decode 0b00000111#8 = .ok .cbcei ∧ decode 0b00001000#8 = .ok .cbcd ∧
  decode 0b00000000#8 = .error (.illegalCommand 0#8) ∧ decode 0b00001001#8 = .error (.illegalCommand 9#8)

/-- R80, R81, R93: a sequence of commands and the bytes it writes to CMD determine each other. -/
def Obligations.CommandStreamsDecodeAndEncodeAgree : Prop :=
  (∀ is : List Instr, (∀ i ∈ is, i.wellFormed = true) → decodeAll (encodeAll is) = .ok is) ∧
  (∀ (cs : List Byte) (is : List Instr), decodeAll cs = .ok is → encodeAll is = cs) ∧
  (∀ cs : List Byte, (∃ is, decodeAll cs = .ok is) ↔ ∀ c ∈ cs, 1 ≤ c.toNat ∧ c.toNat ≤ 8)

/-! ### The step and the host's port -/

/-- R20, R84: the CMD write of a byte that decodes to `i` is executed as `i`, and that of a byte that decodes to no command
ends in `IllegalCommand`, on the state from which that action has been taken off the host's list (log entry 1). -/
def Obligations.StepRunsTheDecodedCommand : Prop :=
  ∀ (s : State) (c : Byte) (rest : List HostAction), s.pending = .writeCmd c :: rest →
    (∀ i : Instr, i.wellFormed = true → decode c = .ok i → step s = exec i { s with pending := rest }) ∧
    (∀ e : DecodeError, decode c = .error e → step s = .next { s with pending := rest, err := 7#8 })

/-- R82, R212: a byte that is not one of `0x01` to `0x08` raises `IllegalCommand` and changes nothing but ERR, whatever the
state, and no command ends in `IllegalCommand`. -/
def Obligations.IllegalCommandIsRaisedByEveryOtherByte : Prop :=
  ∀ (c : Byte) (s : State),
    (¬ (1 ≤ c.toNat ∧ c.toNat ≤ 8) → issueCommand c s = .next { s with err := 7#8 }) ∧
    (1 ≤ c.toNat ∧ c.toNat ≤ 8 → ∃ t, issueCommand c s = .next t ∧ t.err ≠ 7#8)

/-- R61, R62, R34: a step takes exactly the oldest action of the host's list, and never waits or stops in front of one that
can be presented; one that cannot is refused (U9); with an empty list the core waits (log entry 1: the list is the model's
own). -/
def Obligations.EveryStepTakesOneHostAction : Prop :=
  ∀ s : State,
    (∀ (a : HostAction) (rest : List HostAction), s.pending = a :: rest → a.presentable s.params = true →
      ∃ t, step s = .next t ∧ t.pending = rest) ∧
    (∀ (a : HostAction) (rest : List HostAction), s.pending = a :: rest → a.presentable s.params = false →
      step s = .refused .cannotBePresented) ∧
    (s.pending = [] → step s = .next s)

/-- R24, R34: a host write replaces its register or whole buffer and nothing else; a buffer write longer than the capacity
cannot be presented and is refused (U9, log entry 5). -/
def Obligations.HostWritesReplaceWhatTheyName : Prop :=
  ∀ (s : State) (rest : List HostAction) (bs : List Byte) (w : Word),
    (s.pending = .writeKey bs :: rest → bs.length ≤ s.params.keyCap →
      step s = .next { s with pending := rest, keyBuf := bs }) ∧
    (s.pending = .writeIv bs :: rest → bs.length ≤ s.params.ivCap →
      step s = .next { s with pending := rest, ivBuf := bs }) ∧
    (s.pending = .writeIn bs :: rest → (∀ m, s.params.maxLen = some m → bs.length ≤ m) →
      step s = .next { s with pending := rest, inBuf := bs }) ∧
    (s.pending = .writeL w :: rest → step s = .next { s with pending := rest, l := w }) ∧
    (s.pending = .writeR w :: rest → step s = .next { s with pending := rest, r := w }) ∧
    (s.pending = .writeKey bs :: rest → s.params.keyCap < bs.length → step s = .refused .cannotBePresented) ∧
    (s.pending = .writeIv bs :: rest → s.params.ivCap < bs.length → step s = .refused .cannotBePresented) ∧
    (∀ m, s.pending = .writeIn bs :: rest → s.params.maxLen = some m → m < bs.length →
      step s = .refused .cannotBePresented)

/-- R27, R28: "a host write is ignored". -/
def Obligations.HostWritesOfStatusAndErrAreIgnored : Prop :=
  ∀ (s : State) (rest : List HostAction) (b : Byte),
    s.pending = .writeStatus b :: rest ∨ s.pending = .writeErr b :: rest → step s = .next { s with pending := rest }

/-- R27: STATUS read as bits. -/
def Obligations.StatusBitsViewCtxAndErr : Prop :=
  ∀ s : State, s.status.getLsbD 0 = s.ctx ∧ (s.status.getLsbD 1 = true ↔ s.err ≠ 0#8) ∧
    ∀ j, 2 ≤ j → s.status.getLsbD j = false

/-- R29, R30, R53: what each read answers, and that a read changes nothing in the core (`answer` is the model's own field,
log entry 7). -/
def Obligations.HostReadsAnswerAndChangeNothing : Prop :=
  ∀ (s : State) (rest : List HostAction) (n : HostName), s.pending = .read n :: rest →
    step s = .next { s with pending := rest, answer := some (hostRead s n) } ∧
    hostRead s .status = .byte s.status ∧ hostRead s .err = .byte s.err ∧ hostRead s .cmd = .byte 0#8 ∧
    hostRead s .l = .word s.l ∧ hostRead s .r = .word s.r ∧
    hostRead s .keyLen = .length s.keyBuf.length ∧ hostRead s .ivLen = .length s.ivBuf.length ∧
    hostRead s .inLen = .length s.inBuf.length ∧ hostRead s .outLen = .length s.outBuf.length ∧
    hostRead s .key = .bytes s.keyBuf ∧ hostRead s .iv = .bytes s.ivBuf ∧
    hostRead s .inp = .bytes s.inBuf ∧ hostRead s .out = .bytes s.outBuf

/-- The values R37 gives a state after reset, whatever the core's parameters; the tables, which it leaves unspecified, are not
among them. -/
def Obligations.ResetLeavesTheSpecifiedState : Prop :=
  ∀ t : State,
    (t = State.reset ∨ (∃ p, t = State.resetWith p) ∨
      ∃ (s : State) (rest : List HostAction), s.pending = .reset :: rest ∧ step s = .next t) →
    t.ctx = false ∧ t.err = 0#8 ∧ t.status = 0#8 ∧ (∀ i : Fin 8, t.k[i] = 0#32) ∧ t.l = 0#32 ∧ t.r = 0#32 ∧
    t.keyBuf = [] ∧ t.ivBuf = [] ∧ t.inBuf = [] ∧ t.outBuf = []

/-- R230: "nothing of a key, a context or a payload survives a reset": two cores of the same parameters whose host, random
source and last answer agree are the same core after it. -/
def Obligations.NothingOfTheCoreSurvivesReset : Prop :=
  ∀ (s s' : State) (rest : List HostAction), s.pending = .reset :: rest → s'.pending = .reset :: rest →
    s.params = s'.params → s.draws = s'.draws → s.answer = s'.answer → ∃ t, step s = .next t ∧ step s' = .next t

/-- R232: reset, a key of 32 bytes, INIT: then the core is READY with `ERR = 0`, whichever allowed parameters it has. -/
def Obligations.BootSequenceMakesTheCoreReady : Prop :=
  ∀ (s : State) (key : List Byte) (rest : List HostAction), Admissible s.params → key.length = 32 →
    s.pending = .reset :: .writeKey key :: .writeCmd 1#8 :: rest →
    ∃ t : State, core.run 3 s = .next t ∧ t.ctx = true ∧ t.err = 0#8 ∧ t.status = 1#8 ∧ t.keyBuf = key ∧
      t.pending = rest

/-- R94: INITT is the write of the text's bytes and INIT, and ends in `InvalidKeySize` unless they are 32 (a text longer than
`KEY_CAP` cannot be presented, R34, log entry 5); RELEASE is reset. R93: the encoding of a program is the sequence of bytes
its `cmd` lines write to CMD. -/
def Obligations.PseudoInstructionsExpand : Prop :=
  (∀ (s : State) (text : List Byte), s.pending = programActions [.initt text] → text.length ≤ s.params.keyCap →
    ∃ t : State, core.run 2 s = .next t ∧ t.keyBuf = text ∧ t.pending = [] ∧
      (text.length = 32 → t.ctx = true ∧ t.err = 0#8) ∧
      (text.length ≠ 32 → t.ctx = s.ctx ∧ t.k = s.k ∧ t.tables = s.tables ∧ t.err = 1#8)) ∧
  (∀ (s : State) (text : List Byte), s.pending = programActions [.initt text] → s.params.keyCap < text.length →
    core.run 2 s = .refused .cannotBePresented) ∧
  (∀ s : State, s.pending = programActions [.release] → step s = .next (resetCore { s with pending := [] })) ∧
  programEncoding [] = [] ∧
  (∀ p q : List ProgramLine, programEncoding (p ++ q) = programEncoding p ++ programEncoding q) ∧
  (∀ i : Instr, programEncoding [.cmd i] = [encode i]) ∧
  (∀ c : Byte, programEncoding [.act (.writeCmd c)] = [c]) ∧
  (∀ a : HostAction, (∀ c, a ≠ .writeCmd c) → programEncoding [.act a] = []) ∧
  (∀ text : List Byte, programEncoding [.initt text] = [1#8]) ∧
  programEncoding [.release] = []

/-! ### Tables, keys and byte order -/

/-- R110 with R10: every entry of the four tables, for every contents of the boxes. -/
def Obligations.TableEntriesComeFromTheBoxPairs : Prop :=
  ∀ (sb : Config.SBox) (h l : Nibble),
    ((tableBuild sb).t1.get (h ++ l)).toNat = 16 * (sb.k8[h.toNat]).toNat + (sb.k7[l.toNat]).toNat ∧
    ((tableBuild sb).t2.get (h ++ l)).toNat = 16 * (sb.k6[h.toNat]).toNat + (sb.k5[l.toNat]).toNat ∧
    ((tableBuild sb).t3.get (h ++ l)).toNat = 16 * (sb.k4[h.toNat]).toNat + (sb.k3[l.toNat]).toNat ∧
    ((tableBuild sb).t4.get (h ++ l)).toNat = 16 * (sb.k2[h.toNat]).toNat + (sb.k1[l.toNat]).toNat

/-- R112 (c): boxes that are permutations give tables that are permutations; and R7 (a) of the default boxes. -/
def Obligations.TablesOfPermutationsArePermutations : Prop :=
  sbox.allPermutations ∧
  ∀ sb : Config.SBox, sb.allPermutations →
    Function.Bijective (tableBuild sb).t1.get ∧ Function.Bijective (tableBuild sb).t2.get ∧
    Function.Bijective (tableBuild sb).t3.get ∧ Function.Bijective (tableBuild sb).t4.get

/-- R13, R56: the bytes of a block are the two words least significant byte first, left word first, and back. -/
def Obligations.BlocksAreLittleEndianWordPairs : Prop :=
  (∀ s : Block,
    (blockIn s).1.toNat = s[0].toNat + 2 ^ 8 * s[1].toNat + 2 ^ 16 * s[2].toNat + 2 ^ 24 * s[3].toNat ∧
    (blockIn s).2.toNat = s[4].toNat + 2 ^ 8 * s[5].toNat + 2 ^ 16 * s[6].toNat + 2 ^ 24 * s[7].toNat) ∧
  (∀ s : Block, blockOut (blockIn s) = s) ∧ (∀ p : Word × Word, blockIn (blockOut p) = p)

/-! ### INIT -/

/-- R113, R114, R111: what INIT leaves, on a core in either state. With a key of 32 bytes: the subkeys by R55 as numbers, the
tables of the core's boxes, `CTX = 1`, `ERR = 0`, and nothing else changes; with any other key only ERR changes, and an old context stays. -/
def Obligations.InitBuildsTheContext : Prop :=
  (∀ (s : State) (len_eq : s.keyBuf.length = 32), ∃ t,
    exec .init s = .next t ∧ t = { s with k := t.k, tables := tableBuild s.params.sbox, ctx := true, err := 0#8 } ∧
    ∀ i : Fin 8, (t.k[i]).toNat =
      (s.keyBuf[4 * i.val]).toNat + 2 ^ 8 * (s.keyBuf[4 * i.val + 1]).toNat +
      2 ^ 16 * (s.keyBuf[4 * i.val + 2]).toNat + 2 ^ 24 * (s.keyBuf[4 * i.val + 3]).toNat) ∧
  (∀ s : State, s.keyBuf.length ≠ 32 → exec .init s = .next { s with err := 1#8 })

/-- R201: INIT fails exactly when the key's length is not 32, and then only ERR changes. -/
def Obligations.InitFailsExactlyOnAWrongKeySize : Prop :=
  ∀ s : State,
    (s.keyBuf.length ≠ 32 → exec .init s = .next { s with err := 1#8 }) ∧
    (s.keyBuf.length = 32 → ∃ t, exec .init s = .next t ∧ t.err = 0#8)

/-- R23, R215: the context changes only by reset and by an INIT with a key of 32 bytes, and READY is left only by reset. -/
def Obligations.OnlyResetAndInitChangeTheContext : Prop :=
  ∀ s t : State, step s = .next t → t.k ≠ s.k ∨ t.tables ≠ s.tables ∨ t.ctx ≠ s.ctx →
    (∃ rest, s.pending = .reset :: rest ∧ t.ctx = false) ∨
    (∃ rest, s.pending = .writeCmd 1#8 :: rest ∧ s.keyBuf.length = 32 ∧ t.ctx = true)

/-! ### Feistel core, ENCB and DECB -/

/-- R130: `y` from the four table reads as a number, and bit j of `y` becomes bit (j + 11) mod 32 of F, for all tables. -/
def Obligations.RoundFunctionReadsTablesAndRotates : Prop :=
  ∀ (t : Tables) (a b c d : Byte), ∃ y : Word,
    y.toNat = 2 ^ 24 * (t.t1.get a).toNat + 2 ^ 16 * (t.t2.get b).toNat + 2 ^ 8 * (t.t3.get c).toNat +
      (t.t4.get d).toNat ∧
    ∀ j, j < 32 → (roundF t (a ++ b ++ c ++ d)).getLsbD ((j + 11) % 32) = y.getLsbD j

/-- R130: with tables built from permutations, F is a bijection on words. -/
def Obligations.RoundFunctionIsABijection : Prop :=
  ∀ sb : Config.SBox, sb.allPermutations → Function.Bijective (roundF (tableBuild sb))

/-- R132: the two subkey orders in closed form, and that each is the other read backward. -/
def Obligations.SubkeyOrders : Prop :=
  ∀ i : Nat, 1 ≤ i → i ≤ 32 →
    (encSeq i).val = (if i ≤ 24 then (i - 1) % 8 else 32 - i) ∧
    (decSeq i).val = (if i ≤ 8 then i - 1 else (32 - i) % 8) ∧
    decSeq i = encSeq (33 - i)

/-- R133, in the source's "swap roles each round" wording. -/
def Obligations.EncryptSwapsRolesEachRound : Prop :=
  ∀ (k : Subkeys) (t : Tables) (p : Word × Word),
    encrypt k t p =
      ((List.range' 1 32).foldl (fun (q : Word × Word) i => (q.2 ^^^ roundF t (q.1 + k[encSeq i]), q.1)) p).swap

/-- R135 (a): each direction inverts the other, for every subkeys and every tables, permutations or not. -/
def Obligations.DecryptAndEncryptInvertEachOther : Prop :=
  ∀ (k : Subkeys) (t : Tables) (p : Word × Word),
    decrypt k t (encrypt k t p) = p ∧ encrypt k t (decrypt k t p) = p

/-- R135 (c): the reading with the left half first and no output exchange is Encrypt on exchanged halves. -/
def Obligations.MirrorReadingEncryptsExchangedHalves : Prop :=
  ∀ (k : Subkeys) (t : Tables) (p : Word × Word),
    (List.range' 1 32).foldl (fun (n : Word × Word) i =>
      if i % 2 = 1 then (n.1 ^^^ roundF t (n.2 + k[encSeq i]), n.2)
      else (n.1, n.2 ^^^ roundF t (n.1 + k[encSeq i]))) p = encrypt k t p.swap

/-- R136: ENCB encrypts `(L, R)` in place and changes nothing else but ERR; without a context it raises `NoContext`. -/
def Obligations.EncbEncryptsInPlace : Prop :=
  ∀ s : State,
    (s.ctx = true → exec .encb s = .next { s with
      l := (encrypt s.k s.tables (s.l, s.r)).1, r := (encrypt s.k s.tables (s.l, s.r)).2, err := 0#8 }) ∧
    (s.ctx = false → exec .encb s = .next { s with err := 5#8 })

/-- R137: DECB decrypts `(L, R)` in place and changes nothing else but ERR; without a context it raises `NoContext`; DECB
after ENCB, and ENCB after DECB, restores `L` and `R`. -/
def Obligations.DecbDecryptsInPlaceAndUndoesEncb : Prop :=
  ∀ s : State,
    (s.ctx = true → exec .decb s = .next { s with
      l := (decrypt s.k s.tables (s.l, s.r)).1, r := (decrypt s.k s.tables (s.l, s.r)).2, err := 0#8 }) ∧
    (s.ctx = false → exec .decb s = .next { s with err := 5#8 }) ∧
    (s.ctx = true → ∃ t, exec .encb s = .next t ∧ exec .decb t = .next { s with err := 0#8 }) ∧
    (s.ctx = true → ∃ t, exec .decb s = .next t ∧ exec .encb t = .next { s with err := 0#8 })

/-! ### Padding -/

/-- R150: the shape and length of the padded sequence; at most seven pad bytes, none on an aligned one. -/
def Obligations.AlignToBlockPadsToTheNextMultiple : Prop :=
  ∀ s : List Byte, ∃ pad : List Byte,
    alignToBlock s = s ++ pad ∧ (s.length + pad.length) % 8 = 0 ∧ pad.length ≤ 7 ∧
    (pad = [] ∨ ∃ n, pad = 0x80#8 :: List.replicate n 0#8)

/-- R151, R152 with R153: the index of the marker when the last non-zero byte is one, none otherwise; and Strip. -/
def Obligations.StripCutsAtTheLastMarker : Prop :=
  (∀ (s : List Byte) (p : Nat), paddingIndex s = some p ↔
    ∃ pre n, s = pre ++ 0x80#8 :: List.replicate n 0#8 ∧ p = pre.length) ∧
  (∀ (pre : List Byte) (n : Nat), strip (pre ++ 0x80#8 :: List.replicate n 0#8) = pre) ∧
  (∀ s : List Byte, (∀ pre n, s ≠ pre ++ 0x80#8 :: List.replicate n 0#8) → strip s = s)

/-- R154: the round trip of the padding, and its exact exception. -/
def Obligations.StripUndoesAlignOutsideTheException : Prop :=
  (∀ p : List Byte, (p.length % 8 = 0 → ∀ pre n, p ≠ pre ++ 0x80#8 :: List.replicate n 0#8) →
    strip (alignToBlock p) = p) ∧
  (∀ (p pre : List Byte) (n : Nat), p.length % 8 = 0 → p = pre ++ 0x80#8 :: List.replicate n 0#8 →
    strip (alignToBlock p) = pre)

/-! ### ECB -/

/-- R166: ECBE on a READY core with a non-empty `IN`: every block of `OUT`, its length, and that nothing but `OUT` and `ERR`
changes; and its two errors, in their order. -/
def Obligations.EcbeEncryptsEveryPaddedBlock : Prop :=
  ∀ s : State,
    (s.ctx = true → s.inBuf ≠ [] → ∃ t,
      exec .ecbe s = .next t ∧ t = { s with outBuf := t.outBuf, err := 0#8 } ∧
      t.outBuf.length = (alignToBlock s.inBuf).length ∧
      ∀ b, 8 * b < t.outBuf.length → ∃ p : Block, memRead (alignToBlock s.inBuf) (8 * b) 8 = some p ∧
        memRead t.outBuf (8 * b) 8 = some (blockOut (encrypt s.k s.tables (blockIn p)))) ∧
    (s.ctx = false → exec .ecbe s = .next { s with err := 5#8 }) ∧
    (s.ctx = true → s.inBuf = [] → exec .ecbe s = .next { s with err := 2#8 })

/-- R168: ECBD on a READY core with a whole number of blocks in `IN`: `OUT` is the strip of the decrypted blocks; and its
three errors, in their order. -/
def Obligations.EcbdDecryptsEveryBlockAndStrips : Prop :=
  ∀ s : State,
    (s.ctx = true → s.inBuf ≠ [] → s.inBuf.length % 8 = 0 → ∃ plain : List Byte,
      exec .ecbd s = .next { s with outBuf := strip plain, err := 0#8 } ∧ plain.length = s.inBuf.length ∧
      ∀ b, 8 * b < plain.length → ∃ c : Block, memRead s.inBuf (8 * b) 8 = some c ∧
        memRead plain (8 * b) 8 = some (blockOut (decrypt s.k s.tables (blockIn c)))) ∧
    (s.ctx = false → exec .ecbd s = .next { s with err := 5#8 }) ∧
    (s.ctx = true → s.inBuf = [] → exec .ecbd s = .next { s with err := 2#8 }) ∧
    (s.ctx = true → s.inBuf ≠ [] → s.inBuf.length % 8 ≠ 0 → exec .ecbd s = .next { s with err := 6#8 })

/-- R167 (b): equal plaintext blocks give equal ciphertext blocks, in one message or in two under one context. -/
def Obligations.EqualBlocksGiveEqualEcbBlocks : Prop :=
  ∀ (s s' t t' : State) (a b : Nat), s.k = s'.k → s.tables = s'.tables →
    exec .ecbe s = .next t → t.err = 0#8 → exec .ecbe s' = .next t' → t'.err = 0#8 →
    8 * a < t.outBuf.length → 8 * b < t'.outBuf.length →
    memRead (alignToBlock s.inBuf) (8 * a) 8 = memRead (alignToBlock s'.inBuf) (8 * b) 8 →
    memRead t.outBuf (8 * a) 8 = memRead t'.outBuf (8 * b) 8

/-- R54, R66: writing the encrypted blocks to `OUT + 8*b` in any order gives the `OUT` of ECBE. -/
def Obligations.EcbBlocksMayBeWrittenInAnyOrder : Prop :=
  ∀ (s t : State) (order : List Nat), s.ctx = true → s.inBuf ≠ [] → exec .ecbe s = .next t →
    order.Perm (List.range ((alignToBlock s.inBuf).length / 8)) →
    order.foldlM (fun out b => (memRead (alignToBlock s.inBuf) (8 * b) 8).bind fun p =>
        memWrite out (8 * b) (encryptBlock s.k s.tables p).toList)
      (List.replicate (alignToBlock s.inBuf).length 0#8) = some t.outBuf

/-- R169: ECBE then ECBD of its output gives the plaintext back, or the plaintext cut before its last marker in R154's
exception. -/
def Obligations.EcbRoundTrip : Prop :=
  ∀ s : State, s.ctx = true → s.inBuf ≠ [] → ∃ t u,
    exec .ecbe s = .next t ∧ exec .ecbd { t with inBuf := t.outBuf } = .next u ∧ u.err = 0#8 ∧
    ((s.inBuf.length % 8 = 0 → ∀ pre n, s.inBuf ≠ pre ++ 0x80#8 :: List.replicate n 0#8) → u.outBuf = s.inBuf) ∧
    (∀ pre n, s.inBuf.length % 8 = 0 → s.inBuf = pre ++ 0x80#8 :: List.replicate n 0#8 → u.outBuf = pre)

/-! ### CBC -/

/-- R182, R183: CBCEI on a READY core with an 8-byte `IV` and a non-empty `IN`: the IV in clear, then each block encrypted
after exclusive or with the block before it in `OUT`; nothing but `OUT` and `ERR` changes; and its three errors, in their
order. -/
def Obligations.CbceiChainsFromTheIvBuffer : Prop :=
  ∀ s : State,
    (s.ctx = true → s.ivBuf.length = 8 → s.inBuf ≠ [] → ∃ t,
      exec .cbcei s = .next t ∧ t = { s with outBuf := t.outBuf, err := 0#8 } ∧
      t.outBuf.length = 8 + (alignToBlock s.inBuf).length ∧ t.outBuf.take 8 = s.ivBuf ∧
      ∀ b, 8 * b < (alignToBlock s.inBuf).length → ∃ p prev : Block,
        memRead (alignToBlock s.inBuf) (8 * b) 8 = some p ∧ memRead t.outBuf (8 * b) 8 = some prev ∧
        memRead t.outBuf (8 * b + 8) 8 = some (blockOut (encrypt s.k s.tables (blockIn (xor8 p prev))))) ∧
    (s.ctx = false → exec .cbcei s = .next { s with err := 5#8 }) ∧
    (s.ctx = true → s.ivBuf.length ≠ 8 → exec .cbcei s = .next { s with err := 3#8 }) ∧
    (s.ctx = true → s.ivBuf.length = 8 → s.inBuf = [] → exec .cbcei s = .next { s with err := 2#8 })

/-- R184: CBCE on a READY core with a non-empty `IN` completes, whatever the draw and whatever `IV` holds; nothing but `OUT`
and `ERR` changes (and the model's own count of draws, log entry 3). -/
def Obligations.CbceChainsFromTheDrawnIv : Prop :=
  ∀ s : State, s.ctx = true → s.inBuf ≠ [] → ∃ t,
    exec .cbce s = .next t ∧ t = { s with outBuf := t.outBuf, err := 0#8, draws := s.draws + 1 } ∧
    t.outBuf.length = 8 + (alignToBlock s.inBuf).length ∧ t.outBuf.take 8 = (Config.drawIv s.draws).toList ∧
    ∀ b, 8 * b < (alignToBlock s.inBuf).length → ∃ p prev : Block,
      memRead (alignToBlock s.inBuf) (8 * b) 8 = some p ∧ memRead t.outBuf (8 * b) 8 = some prev ∧
      memRead t.outBuf (8 * b + 8) 8 = some (blockOut (encrypt s.k s.tables (blockIn (xor8 p prev))))

/-- R184 (corner cases): "For any draw `iv`, the result equals what CBCEI gives with `IV = iv`". -/
def Obligations.CbceIsCbceiWithTheDrawnIv : Prop :=
  ∀ s : State, s.ctx = true → ∃ u,
    exec .cbcei { s with ivBuf := (Config.drawIv s.draws).toList } = .next u ∧
    exec .cbce s = .next { u with ivBuf := s.ivBuf, draws := s.draws + 1 }

/-- R185, R186: CBCD on a READY core with an IV and at least one whole block in `IN`: `OUT` is the strip of the recovered
plaintext; and its three errors, in their order. -/
def Obligations.CbcdUnchainsAndStrips : Prop :=
  ∀ s : State,
    (s.ctx = true → 8 < s.inBuf.length → (s.inBuf.length - 8) % 8 = 0 → ∃ plain : List Byte,
      exec .cbcd s = .next { s with outBuf := strip plain, err := 0#8 } ∧ plain.length + 8 = s.inBuf.length ∧
      ∀ b, 8 * b < plain.length → ∃ prev c : Block,
        memRead s.inBuf (8 * b) 8 = some prev ∧ memRead s.inBuf (8 * b + 8) 8 = some c ∧
        memRead plain (8 * b) 8 = some (xor8 (blockOut (decrypt s.k s.tables (blockIn c))) prev)) ∧
    (s.ctx = false → exec .cbcd s = .next { s with err := 5#8 }) ∧
    (s.ctx = true → s.inBuf.length ≤ 8 → exec .cbcd s = .next { s with err := 4#8 }) ∧
    (s.ctx = true → 8 < s.inBuf.length → (s.inBuf.length - 8) % 8 ≠ 0 → exec .cbcd s = .next { s with err := 6#8 })

/-- R187 (a): CBCEI, or CBCE with any draw, then CBCD of its output gives the plaintext back, or the plaintext cut before
its last marker in R154's exception. -/
def Obligations.CbcRoundTrip : Prop :=
  ∀ (s : State) (i : Instr), s.ctx = true → s.inBuf ≠ [] → (i = .cbcei ∧ s.ivBuf.length = 8) ∨ i = .cbce → ∃ t u,
    exec i s = .next t ∧ exec .cbcd { t with inBuf := t.outBuf } = .next u ∧ u.err = 0#8 ∧
    ((s.inBuf.length % 8 = 0 → ∀ pre n, s.inBuf ≠ pre ++ 0x80#8 :: List.replicate n 0#8) → u.outBuf = s.inBuf) ∧
    (∀ pre n, s.inBuf.length % 8 = 0 → s.inBuf = pre ++ 0x80#8 :: List.replicate n 0#8 → u.outBuf = pre)

/-- R183 (corner cases): "with a zero IV the first ciphertext block equals the ECB encryption of the first plaintext
block". -/
def Obligations.ZeroIvFirstBlockIsTheEcbBlock : Prop :=
  ∀ (s t u : State), s.ctx = true → s.inBuf ≠ [] → s.ivBuf = List.replicate 8 0#8 →
    exec .cbcei s = .next t → exec .ecbe s = .next u → memRead t.outBuf 8 8 = memRead u.outBuf 0 8

/-! ### Errors -/

/-- R210: without a context every command but INIT raises `NoContext` and changes nothing but ERR. -/
def Obligations.CommandsBeforeInitRaiseNoContext : Prop :=
  ∀ (i : Instr) (s : State), i ≠ .init → s.ctx = false → exec i s = .next { s with err := 5#8 }

/-- R210, R236: without a context no command reads the subkeys or the tables: on a core that differs in them alone it does
the same to everything else. -/
def Obligations.UnconfiguredCoreReadsNoContext : Prop :=
  ∀ (i : Instr) (s : State) (k : Subkeys) (tb : Tables), s.ctx = false → ∃ t,
    exec i s = .next t ∧
    (exec i { s with k := k, tables := tb } = .next t ∨
     exec i { s with k := k, tables := tb } = .next { t with k := k, tables := tb })

/-- R202: who raises `EmptyInput` on an empty `IN`, and who does not. CBCE's draw before the test is counted in the model's
own field (log entry 3). -/
def Obligations.EmptyInputIsRaisedOnAnEmptyIn : Prop :=
  (∀ s : State, s.ctx = true → s.inBuf = [] →
    exec .ecbe s = .next { s with err := 2#8 } ∧ exec .ecbd s = .next { s with err := 2#8 } ∧
    exec .cbce s = .next { s with err := 2#8, draws := s.draws + 1 } ∧
    (s.ivBuf.length = 8 → exec .cbcei s = .next { s with err := 2#8 })) ∧
  (∀ s t : State, exec .cbcd s = .next t → t.err ≠ 2#8) ∧
  (∀ (i : Instr) (s : State) (bs : List Byte), i = .init ∨ i = .encb ∨ i = .decb → ∃ t,
    exec i s = .next t ∧ exec i { s with inBuf := bs } = .next { t with inBuf := bs })

/-- R203: CBCEI raises `InvalidIVSize` when the IV is not 8 bytes, before it looks at `IN`; no other command ever does. -/
def Obligations.InvalidIvSizeIsRaisedByCbceiAlone : Prop :=
  (∀ s : State, s.ctx = true → s.ivBuf.length ≠ 8 → exec .cbcei s = .next { s with err := 3#8 }) ∧
  (∀ (i : Instr) (s : State), i ≠ .cbcei → ∃ t, exec i s = .next t ∧ t.err ≠ 3#8)

/-- R204: CBCD raises `CiphertextTooShort` on 8 bytes or fewer, the empty buffer and an IV alone included. -/
def Obligations.CiphertextTooShortIsRaisedUpToEightBytes : Prop :=
  ∀ s : State, s.ctx = true → s.inBuf.length ≤ 8 → exec .cbcd s = .next { s with err := 4#8 }

/-- R211: a ciphertext that is no whole number of blocks is `BadLength`, never given a meaning. -/
def Obligations.BadLengthIsRaisedOnPartialBlocks : Prop :=
  ∀ s : State, s.ctx = true →
    (s.inBuf.length ≠ 0 → s.inBuf.length % 8 ≠ 0 → exec .ecbd s = .next { s with err := 6#8 }) ∧
    (8 < s.inBuf.length → (s.inBuf.length - 8) % 8 ≠ 0 → exec .cbcd s = .next { s with err := 6#8 })

/-- R206: every CMD byte ends in a next state, and where it reports an error nothing but ERR has changed (and the model's
own count of draws, log entry 3). -/
def Obligations.ErrorsChangeNothingButErr : Prop :=
  ∀ (c : Byte) (s : State), ∃ t, issueCommand c s = .next t ∧
    (t.err ≠ 0#8 → t = { s with err := t.err, draws := t.draws })

/-- R213: the one error each CMD byte reports, by the order of the tests, all of them before any work. -/
def Obligations.ErrorPriority : Prop :=
  ∀ s : State,
    let key := s.keyBuf.length
    let iv := s.ivBuf.length
    let inp := s.inBuf.length
    (∀ c : Byte, ¬ (1 ≤ c.toNat ∧ c.toNat ≤ 8) → issueCommand c s = .next { s with err := 7#8 }) ∧
    (∀ (c : Byte) (i : Instr), decode c = .ok i → issueCommand c s = exec i s) ∧
    EndsWith .init s (if key ≠ 32 then 1#8 else 0#8) ∧
    EndsWith .encb s (if s.ctx = false then 5#8 else 0#8) ∧
    EndsWith .decb s (if s.ctx = false then 5#8 else 0#8) ∧
    EndsWith .ecbe s (if s.ctx = false then 5#8 else if inp = 0 then 2#8 else 0#8) ∧
    EndsWith .ecbd s
      (if s.ctx = false then 5#8 else if inp = 0 then 2#8 else if inp % 8 ≠ 0 then 6#8 else 0#8) ∧
    EndsWith .cbce s (if s.ctx = false then 5#8 else if inp = 0 then 2#8 else 0#8) ∧
    EndsWith .cbcei s
      (if s.ctx = false then 5#8 else if iv ≠ 8 then 3#8 else if inp = 0 then 2#8 else 0#8) ∧
    EndsWith .cbcd s
      (if s.ctx = false then 5#8 else if inp ≤ 8 then 4#8 else if (inp - 8) % 8 ≠ 0 then 6#8 else 0#8)

/-- R205: which error a command reports depends on the context bit and on lengths only, and the same command on the state
it failed in fails the same way. -/
def Obligations.ErrorsDependOnLengthsAndRepeat : Prop :=
  (∀ (i : Instr) (s s' t t' : State), s.ctx = s'.ctx → s.keyBuf.length = s'.keyBuf.length →
    s.ivBuf.length = s'.ivBuf.length → s.inBuf.length = s'.inBuf.length →
    exec i s = .next t → exec i s' = .next t' → t.err = t'.err) ∧
  (∀ (i : Instr) (s t : State), exec i s = .next t → t.err ≠ 0#8 → ∃ u, exec i t = .next u ∧ u.err = t.err)

/-- R207: errors are not sticky: what a command does, ERR included, does not depend on what ERR held. -/
def Obligations.EarlierErrorsDoNotMatter : Prop :=
  ∀ (i : Instr) (s : State) (e : Byte), exec i { s with err := e } = exec i s

/-! ### Frames and invariants -/

/-- R36, row INIT: what INIT leaves as it was. -/
def Obligations.InitFrame : Prop :=
  ∀ s t : State, exec .init s = .next t →
    t.l = s.l ∧ t.r = s.r ∧ (∀ (b : Buf) (off : Nat), t.readByte b off = s.readByte b off) ∧
    t.params = s.params ∧ t.pending = s.pending ∧ t.draws = s.draws ∧ t.answer = s.answer ∧
    (s.keyBuf.length ≠ 32 → t.k = s.k ∧ t.tables = s.tables ∧ t.ctx = s.ctx)

/-- R36, row ENCB, DECB: what the block commands leave as it was. -/
def Obligations.BlockCommandFrame : Prop :=
  ∀ (i : Instr) (s t : State), i = .encb ∨ i = .decb → exec i s = .next t →
    t.k = s.k ∧ t.tables = s.tables ∧ t.ctx = s.ctx ∧
    (∀ (b : Buf) (off : Nat), t.readByte b off = s.readByte b off) ∧
    t.params = s.params ∧ t.pending = s.pending ∧ t.draws = s.draws ∧ t.answer = s.answer ∧
    (s.ctx = false → t.l = s.l ∧ t.r = s.r)

/-- R36, row ECBE, ECBD, CBCE, CBCEI, CBCD: what the mode commands leave as it was. Every byte outside `OUT` reads as before,
and a command that reports an error leaves `OUT` too; on success `OUT` is replaced whole. Only CBCE draws (log entry 3). -/
def Obligations.ModeCommandFrame : Prop :=
  ∀ (i : Instr) (s t : State), i = .ecbe ∨ i = .ecbd ∨ i = .cbce ∨ i = .cbcei ∨ i = .cbcd → exec i s = .next t →
    t.k = s.k ∧ t.tables = s.tables ∧ t.ctx = s.ctx ∧ t.l = s.l ∧ t.r = s.r ∧
    (∀ (b : Buf) (off : Nat), b ≠ .out → t.readByte b off = s.readByte b off) ∧
    (t.err ≠ 0#8 → ∀ off : Nat, t.readByte .out off = s.readByte .out off) ∧
    t.params = s.params ∧ t.pending = s.pending ∧ t.answer = s.answer ∧ (i ≠ .cbce → t.draws = s.draws)

/-- R65, R34: the context is a snapshot: after INIT `KEY` matters to no command but INIT, `IV` to none but CBCEI, `IN` to none
but the mode commands; and `OUT`, which the host alone reads, matters to none: a command leaves it, or replaces it whole by
what it replaces any other `OUT` by. -/
def Obligations.BuffersMatterOnlyToTheirReaders : Prop :=
  ∀ (i : Instr) (s : State) (bs : List Byte), ∃ t, exec i s = .next t ∧
    (i ≠ .init → exec i { s with keyBuf := bs } = .next { t with keyBuf := bs }) ∧
    (i ≠ .cbcei → exec i { s with ivBuf := bs } = .next { t with ivBuf := bs }) ∧
    (i = .init ∨ i = .encb ∨ i = .decb → exec i { s with inBuf := bs } = .next { t with inBuf := bs }) ∧
    (exec i { s with outBuf := bs } = .next t ∨
      t.outBuf = s.outBuf ∧ exec i { s with outBuf := bs } = .next { t with outBuf := bs })

/-- R24: `L` and `R` matter to no command but ENCB and DECB. -/
def Obligations.DataRegistersMatterOnlyToBlockCommands : Prop :=
  ∀ (i : Instr) (s : State) (w v : Word), i ≠ .encb → i ≠ .decb → ∃ t,
    exec i s = .next t ∧ exec i { s with l := w, r := v } = .next { t with l := w, r := v }

/-- The promises of `State.Inv` (R7, R8, R21, R23, R27, R28, R33, R34, R37, R112 (d)) hold of the state after reset: of the
default core (log entries 5 and 6) and of a core with any parameters the spec allows. -/
def Obligations.ResetMeetsTheStatePromises : Prop :=
  State.reset.Inv ∧ ∀ p : Config.Params, Admissible p → (State.resetWith p).Inv

/-- Every step keeps the promises of `State.Inv`: the parameters stay allowed ones, ERR stays a legal code, every buffer stays
within its capacity ("so every result fits", R8), a context always has the built tables, and no key material stands without
one. -/
def Obligations.EveryStepKeepsTheStatePromises : Prop :=
  ∀ s t : State, s.Inv → step s = .next t → t.Inv

/-! ### The parameters -/

/-- R22, R32: the boxes and the capacities are "never mutated", and no command but INIT reads them: on a core with other
parameters it does the same. -/
def Obligations.ParametersAreConstantAndReadByInitAlone : Prop :=
  (∀ s t : State, step s = .next t → t.params = s.params) ∧
  (∀ (i : Instr) (s : State) (p : Config.Params), i ≠ .init → ∃ t,
    exec i s = .next t ∧ exec i { s with params := p } = .next { t with params := p })

/-- R7: the default parameters are allowed ones (the boxes' values are log entry 6, the capacities log entry 5); and on every
core with boxes that meet R7 (a) and (b) INIT with the key of S1, then ENCB and DECB on the blocks of S1 and S2, give the source's known
vectors. -/
def Obligations.AllowedBoxesGiveTheKnownVectors : Prop :=
  Admissible defaultParams ∧
  ∀ s : State, s.params.sbox.allPermutations → ReproducesBlockVectors s.params.sbox →
    s.keyBuf = [0, 0, 0, 0, 1, 0, 0, 0, 2, 0, 0, 0, 3, 0, 0, 0, 4, 0, 0, 0, 5, 0, 0, 0, 6, 0, 0, 0, 7, 0, 0, 0] →
    ∃ t, exec .init s = .next t ∧ t.err = 0#8 ∧
      exec .encb { t with l := 0#32, r := 0#32 } = .next { t with l := 0x37EF7123#32, r := 0x361B7184#32 } ∧
      exec .encb { t with l := 0xFFFFFFFF#32, r := 0xFFFFFFFF#32 } =
        .next { t with l := 0xF9709623#32, r := 0x56AD8D77#32 } ∧
      exec .decb { t with l := 0x37EF7123#32, r := 0x361B7184#32 } = .next { t with l := 0#32, r := 0#32 } ∧
      exec .decb { t with l := 0xF9709623#32, r := 0x56AD8D77#32 } =
        .next { t with l := 0xFFFFFFFF#32, r := 0xFFFFFFFF#32 }
end

