-- ==== Sys2Proof/Laws/State.lean ====
section
/-! SUPPORT. One lemma per field per update of State, and the buffers' and views' lemmas: no later proof unfolds a record
update. -/

namespace Sys2Proof.Machine

/-! ### setContext -/

@[simp] theorem State.setContext_k (s : State) (k : Subkeys) (t : Tables) : (s.setContext k t).k = k := rfl
@[simp] theorem State.setContext_tables (s : State) (k : Subkeys) (t : Tables) : (s.setContext k t).tables = t := rfl
@[simp] theorem State.setContext_ctx (s : State) (k : Subkeys) (t : Tables) : (s.setContext k t).ctx = true := rfl
@[simp] theorem State.setContext_err (s : State) (k : Subkeys) (t : Tables) : (s.setContext k t).err = s.err := rfl
@[simp] theorem State.setContext_l (s : State) (k : Subkeys) (t : Tables) : (s.setContext k t).l = s.l := rfl
@[simp] theorem State.setContext_r (s : State) (k : Subkeys) (t : Tables) : (s.setContext k t).r = s.r := rfl
@[simp] theorem State.setContext_keyBuf (s : State) (k : Subkeys) (t : Tables) : (s.setContext k t).keyBuf = s.keyBuf := rfl
@[simp] theorem State.setContext_ivBuf (s : State) (k : Subkeys) (t : Tables) : (s.setContext k t).ivBuf = s.ivBuf := rfl
@[simp] theorem State.setContext_inBuf (s : State) (k : Subkeys) (t : Tables) : (s.setContext k t).inBuf = s.inBuf := rfl
@[simp] theorem State.setContext_outBuf (s : State) (k : Subkeys) (t : Tables) : (s.setContext k t).outBuf = s.outBuf := rfl
@[simp] theorem State.setContext_params (s : State) (k : Subkeys) (t : Tables) : (s.setContext k t).params = s.params := rfl
@[simp] theorem State.setContext_pending (s : State) (k : Subkeys) (t : Tables) : (s.setContext k t).pending = s.pending := rfl
@[simp] theorem State.setContext_draws (s : State) (k : Subkeys) (t : Tables) : (s.setContext k t).draws = s.draws := rfl
@[simp] theorem State.setContext_answer (s : State) (k : Subkeys) (t : Tables) : (s.setContext k t).answer = s.answer := rfl

/-! ### setLR -/

@[simp] theorem State.setLR_k (s : State) (p : Word × Word) : (s.setLR p).k = s.k := rfl
@[simp] theorem State.setLR_tables (s : State) (p : Word × Word) : (s.setLR p).tables = s.tables := rfl
@[simp] theorem State.setLR_ctx (s : State) (p : Word × Word) : (s.setLR p).ctx = s.ctx := rfl
@[simp] theorem State.setLR_err (s : State) (p : Word × Word) : (s.setLR p).err = s.err := rfl
@[simp] theorem State.setLR_l (s : State) (p : Word × Word) : (s.setLR p).l = p.1 := rfl
@[simp] theorem State.setLR_r (s : State) (p : Word × Word) : (s.setLR p).r = p.2 := rfl
@[simp] theorem State.setLR_keyBuf (s : State) (p : Word × Word) : (s.setLR p).keyBuf = s.keyBuf := rfl
@[simp] theorem State.setLR_ivBuf (s : State) (p : Word × Word) : (s.setLR p).ivBuf = s.ivBuf := rfl
@[simp] theorem State.setLR_inBuf (s : State) (p : Word × Word) : (s.setLR p).inBuf = s.inBuf := rfl
@[simp] theorem State.setLR_outBuf (s : State) (p : Word × Word) : (s.setLR p).outBuf = s.outBuf := rfl
@[simp] theorem State.setLR_params (s : State) (p : Word × Word) : (s.setLR p).params = s.params := rfl
@[simp] theorem State.setLR_pending (s : State) (p : Word × Word) : (s.setLR p).pending = s.pending := rfl
@[simp] theorem State.setLR_draws (s : State) (p : Word × Word) : (s.setLR p).draws = s.draws := rfl
@[simp] theorem State.setLR_answer (s : State) (p : Word × Word) : (s.setLR p).answer = s.answer := rfl

/-! ### setOut -/

@[simp] theorem State.setOut_k (s : State) (bs : List Byte) : (s.setOut bs).k = s.k := rfl
@[simp] theorem State.setOut_tables (s : State) (bs : List Byte) : (s.setOut bs).tables = s.tables := rfl
@[simp] theorem State.setOut_ctx (s : State) (bs : List Byte) : (s.setOut bs).ctx = s.ctx := rfl
@[simp] theorem State.setOut_err (s : State) (bs : List Byte) : (s.setOut bs).err = s.err := rfl
@[simp] theorem State.setOut_l (s : State) (bs : List Byte) : (s.setOut bs).l = s.l := rfl
@[simp] theorem State.setOut_r (s : State) (bs : List Byte) : (s.setOut bs).r = s.r := rfl
@[simp] theorem State.setOut_keyBuf (s : State) (bs : List Byte) : (s.setOut bs).keyBuf = s.keyBuf := rfl
@[simp] theorem State.setOut_ivBuf (s : State) (bs : List Byte) : (s.setOut bs).ivBuf = s.ivBuf := rfl
@[simp] theorem State.setOut_inBuf (s : State) (bs : List Byte) : (s.setOut bs).inBuf = s.inBuf := rfl
@[simp] theorem State.setOut_outBuf (s : State) (bs : List Byte) : (s.setOut bs).outBuf = bs := rfl
@[simp] theorem State.setOut_params (s : State) (bs : List Byte) : (s.setOut bs).params = s.params := rfl
@[simp] theorem State.setOut_pending (s : State) (bs : List Byte) : (s.setOut bs).pending = s.pending := rfl
@[simp] theorem State.setOut_draws (s : State) (bs : List Byte) : (s.setOut bs).draws = s.draws := rfl
@[simp] theorem State.setOut_answer (s : State) (bs : List Byte) : (s.setOut bs).answer = s.answer := rfl

/-! ### setErr -/

@[simp] theorem State.setErr_k (s : State) (c : Byte) : (s.setErr c).k = s.k := rfl
@[simp] theorem State.setErr_tables (s : State) (c : Byte) : (s.setErr c).tables = s.tables := rfl
@[simp] theorem State.setErr_ctx (s : State) (c : Byte) : (s.setErr c).ctx = s.ctx := rfl
@[simp] theorem State.setErr_err (s : State) (c : Byte) : (s.setErr c).err = c := rfl
@[simp] theorem State.setErr_l (s : State) (c : Byte) : (s.setErr c).l = s.l := rfl
@[simp] theorem State.setErr_r (s : State) (c : Byte) : (s.setErr c).r = s.r := rfl
@[simp] theorem State.setErr_keyBuf (s : State) (c : Byte) : (s.setErr c).keyBuf = s.keyBuf := rfl
@[simp] theorem State.setErr_ivBuf (s : State) (c : Byte) : (s.setErr c).ivBuf = s.ivBuf := rfl
@[simp] theorem State.setErr_inBuf (s : State) (c : Byte) : (s.setErr c).inBuf = s.inBuf := rfl
@[simp] theorem State.setErr_outBuf (s : State) (c : Byte) : (s.setErr c).outBuf = s.outBuf := rfl
@[simp] theorem State.setErr_params (s : State) (c : Byte) : (s.setErr c).params = s.params := rfl
@[simp] theorem State.setErr_pending (s : State) (c : Byte) : (s.setErr c).pending = s.pending := rfl
@[simp] theorem State.setErr_draws (s : State) (c : Byte) : (s.setErr c).draws = s.draws := rfl
@[simp] theorem State.setErr_answer (s : State) (c : Byte) : (s.setErr c).answer = s.answer := rfl

/-! ### setKey -/

@[simp] theorem State.setKey_k (s : State) (bs : List Byte) : (s.setKey bs).k = s.k := rfl
@[simp] theorem State.setKey_tables (s : State) (bs : List Byte) : (s.setKey bs).tables = s.tables := rfl
@[simp] theorem State.setKey_ctx (s : State) (bs : List Byte) : (s.setKey bs).ctx = s.ctx := rfl
@[simp] theorem State.setKey_err (s : State) (bs : List Byte) : (s.setKey bs).err = s.err := rfl
@[simp] theorem State.setKey_l (s : State) (bs : List Byte) : (s.setKey bs).l = s.l := rfl
@[simp] theorem State.setKey_r (s : State) (bs : List Byte) : (s.setKey bs).r = s.r := rfl
@[simp] theorem State.setKey_keyBuf (s : State) (bs : List Byte) : (s.setKey bs).keyBuf = bs := rfl
@[simp] theorem State.setKey_ivBuf (s : State) (bs : List Byte) : (s.setKey bs).ivBuf = s.ivBuf := rfl
@[simp] theorem State.setKey_inBuf (s : State) (bs : List Byte) : (s.setKey bs).inBuf = s.inBuf := rfl
@[simp] theorem State.setKey_outBuf (s : State) (bs : List Byte) : (s.setKey bs).outBuf = s.outBuf := rfl
@[simp] theorem State.setKey_params (s : State) (bs : List Byte) : (s.setKey bs).params = s.params := rfl
@[simp] theorem State.setKey_pending (s : State) (bs : List Byte) : (s.setKey bs).pending = s.pending := rfl
@[simp] theorem State.setKey_draws (s : State) (bs : List Byte) : (s.setKey bs).draws = s.draws := rfl
@[simp] theorem State.setKey_answer (s : State) (bs : List Byte) : (s.setKey bs).answer = s.answer := rfl

/-! ### setIv -/

@[simp] theorem State.setIv_k (s : State) (bs : List Byte) : (s.setIv bs).k = s.k := rfl
@[simp] theorem State.setIv_tables (s : State) (bs : List Byte) : (s.setIv bs).tables = s.tables := rfl
@[simp] theorem State.setIv_ctx (s : State) (bs : List Byte) : (s.setIv bs).ctx = s.ctx := rfl
@[simp] theorem State.setIv_err (s : State) (bs : List Byte) : (s.setIv bs).err = s.err := rfl
@[simp] theorem State.setIv_l (s : State) (bs : List Byte) : (s.setIv bs).l = s.l := rfl
@[simp] theorem State.setIv_r (s : State) (bs : List Byte) : (s.setIv bs).r = s.r := rfl
@[simp] theorem State.setIv_keyBuf (s : State) (bs : List Byte) : (s.setIv bs).keyBuf = s.keyBuf := rfl
@[simp] theorem State.setIv_ivBuf (s : State) (bs : List Byte) : (s.setIv bs).ivBuf = bs := rfl
@[simp] theorem State.setIv_inBuf (s : State) (bs : List Byte) : (s.setIv bs).inBuf = s.inBuf := rfl
@[simp] theorem State.setIv_outBuf (s : State) (bs : List Byte) : (s.setIv bs).outBuf = s.outBuf := rfl
@[simp] theorem State.setIv_params (s : State) (bs : List Byte) : (s.setIv bs).params = s.params := rfl
@[simp] theorem State.setIv_pending (s : State) (bs : List Byte) : (s.setIv bs).pending = s.pending := rfl
@[simp] theorem State.setIv_draws (s : State) (bs : List Byte) : (s.setIv bs).draws = s.draws := rfl
@[simp] theorem State.setIv_answer (s : State) (bs : List Byte) : (s.setIv bs).answer = s.answer := rfl

/-! ### setIn -/

@[simp] theorem State.setIn_k (s : State) (bs : List Byte) : (s.setIn bs).k = s.k := rfl
@[simp] theorem State.setIn_tables (s : State) (bs : List Byte) : (s.setIn bs).tables = s.tables := rfl
@[simp] theorem State.setIn_ctx (s : State) (bs : List Byte) : (s.setIn bs).ctx = s.ctx := rfl
@[simp] theorem State.setIn_err (s : State) (bs : List Byte) : (s.setIn bs).err = s.err := rfl
@[simp] theorem State.setIn_l (s : State) (bs : List Byte) : (s.setIn bs).l = s.l := rfl
@[simp] theorem State.setIn_r (s : State) (bs : List Byte) : (s.setIn bs).r = s.r := rfl
@[simp] theorem State.setIn_keyBuf (s : State) (bs : List Byte) : (s.setIn bs).keyBuf = s.keyBuf := rfl
@[simp] theorem State.setIn_ivBuf (s : State) (bs : List Byte) : (s.setIn bs).ivBuf = s.ivBuf := rfl
@[simp] theorem State.setIn_inBuf (s : State) (bs : List Byte) : (s.setIn bs).inBuf = bs := rfl
@[simp] theorem State.setIn_outBuf (s : State) (bs : List Byte) : (s.setIn bs).outBuf = s.outBuf := rfl
@[simp] theorem State.setIn_params (s : State) (bs : List Byte) : (s.setIn bs).params = s.params := rfl
@[simp] theorem State.setIn_pending (s : State) (bs : List Byte) : (s.setIn bs).pending = s.pending := rfl
@[simp] theorem State.setIn_draws (s : State) (bs : List Byte) : (s.setIn bs).draws = s.draws := rfl
@[simp] theorem State.setIn_answer (s : State) (bs : List Byte) : (s.setIn bs).answer = s.answer := rfl

/-! ### setL -/

@[simp] theorem State.setL_k (s : State) (w : Word) : (s.setL w).k = s.k := rfl
@[simp] theorem State.setL_tables (s : State) (w : Word) : (s.setL w).tables = s.tables := rfl
@[simp] theorem State.setL_ctx (s : State) (w : Word) : (s.setL w).ctx = s.ctx := rfl
@[simp] theorem State.setL_err (s : State) (w : Word) : (s.setL w).err = s.err := rfl
@[simp] theorem State.setL_l (s : State) (w : Word) : (s.setL w).l = w := rfl
@[simp] theorem State.setL_r (s : State) (w : Word) : (s.setL w).r = s.r := rfl
@[simp] theorem State.setL_keyBuf (s : State) (w : Word) : (s.setL w).keyBuf = s.keyBuf := rfl
@[simp] theorem State.setL_ivBuf (s : State) (w : Word) : (s.setL w).ivBuf = s.ivBuf := rfl
@[simp] theorem State.setL_inBuf (s : State) (w : Word) : (s.setL w).inBuf = s.inBuf := rfl
@[simp] theorem State.setL_outBuf (s : State) (w : Word) : (s.setL w).outBuf = s.outBuf := rfl
@[simp] theorem State.setL_params (s : State) (w : Word) : (s.setL w).params = s.params := rfl
@[simp] theorem State.setL_pending (s : State) (w : Word) : (s.setL w).pending = s.pending := rfl
@[simp] theorem State.setL_draws (s : State) (w : Word) : (s.setL w).draws = s.draws := rfl
@[simp] theorem State.setL_answer (s : State) (w : Word) : (s.setL w).answer = s.answer := rfl

/-! ### setR -/

@[simp] theorem State.setR_k (s : State) (w : Word) : (s.setR w).k = s.k := rfl
@[simp] theorem State.setR_tables (s : State) (w : Word) : (s.setR w).tables = s.tables := rfl
@[simp] theorem State.setR_ctx (s : State) (w : Word) : (s.setR w).ctx = s.ctx := rfl
@[simp] theorem State.setR_err (s : State) (w : Word) : (s.setR w).err = s.err := rfl
@[simp] theorem State.setR_l (s : State) (w : Word) : (s.setR w).l = s.l := rfl
@[simp] theorem State.setR_r (s : State) (w : Word) : (s.setR w).r = w := rfl
@[simp] theorem State.setR_keyBuf (s : State) (w : Word) : (s.setR w).keyBuf = s.keyBuf := rfl
@[simp] theorem State.setR_ivBuf (s : State) (w : Word) : (s.setR w).ivBuf = s.ivBuf := rfl
@[simp] theorem State.setR_inBuf (s : State) (w : Word) : (s.setR w).inBuf = s.inBuf := rfl
@[simp] theorem State.setR_outBuf (s : State) (w : Word) : (s.setR w).outBuf = s.outBuf := rfl
@[simp] theorem State.setR_params (s : State) (w : Word) : (s.setR w).params = s.params := rfl
@[simp] theorem State.setR_pending (s : State) (w : Word) : (s.setR w).pending = s.pending := rfl
@[simp] theorem State.setR_draws (s : State) (w : Word) : (s.setR w).draws = s.draws := rfl
@[simp] theorem State.setR_answer (s : State) (w : Word) : (s.setR w).answer = s.answer := rfl

/-! ### setAnswer -/

@[simp] theorem State.setAnswer_k (s : State) (a : Answer) : (s.setAnswer a).k = s.k := rfl
@[simp] theorem State.setAnswer_tables (s : State) (a : Answer) : (s.setAnswer a).tables = s.tables := rfl
@[simp] theorem State.setAnswer_ctx (s : State) (a : Answer) : (s.setAnswer a).ctx = s.ctx := rfl
@[simp] theorem State.setAnswer_err (s : State) (a : Answer) : (s.setAnswer a).err = s.err := rfl
@[simp] theorem State.setAnswer_l (s : State) (a : Answer) : (s.setAnswer a).l = s.l := rfl
@[simp] theorem State.setAnswer_r (s : State) (a : Answer) : (s.setAnswer a).r = s.r := rfl
@[simp] theorem State.setAnswer_keyBuf (s : State) (a : Answer) : (s.setAnswer a).keyBuf = s.keyBuf := rfl
@[simp] theorem State.setAnswer_ivBuf (s : State) (a : Answer) : (s.setAnswer a).ivBuf = s.ivBuf := rfl
@[simp] theorem State.setAnswer_inBuf (s : State) (a : Answer) : (s.setAnswer a).inBuf = s.inBuf := rfl
@[simp] theorem State.setAnswer_outBuf (s : State) (a : Answer) : (s.setAnswer a).outBuf = s.outBuf := rfl
@[simp] theorem State.setAnswer_params (s : State) (a : Answer) : (s.setAnswer a).params = s.params := rfl
@[simp] theorem State.setAnswer_pending (s : State) (a : Answer) : (s.setAnswer a).pending = s.pending := rfl
@[simp] theorem State.setAnswer_draws (s : State) (a : Answer) : (s.setAnswer a).draws = s.draws := rfl
@[simp] theorem State.setAnswer_answer (s : State) (a : Answer) : (s.setAnswer a).answer = some a := rfl

/-! ### setPending -/

@[simp] theorem State.setPending_k (s : State) (as : List HostAction) : (s.setPending as).k = s.k := rfl
@[simp] theorem State.setPending_tables (s : State) (as : List HostAction) : (s.setPending as).tables = s.tables := rfl
@[simp] theorem State.setPending_ctx (s : State) (as : List HostAction) : (s.setPending as).ctx = s.ctx := rfl
@[simp] theorem State.setPending_err (s : State) (as : List HostAction) : (s.setPending as).err = s.err := rfl
@[simp] theorem State.setPending_l (s : State) (as : List HostAction) : (s.setPending as).l = s.l := rfl
@[simp] theorem State.setPending_r (s : State) (as : List HostAction) : (s.setPending as).r = s.r := rfl
@[simp] theorem State.setPending_keyBuf (s : State) (as : List HostAction) : (s.setPending as).keyBuf = s.keyBuf := rfl
@[simp] theorem State.setPending_ivBuf (s : State) (as : List HostAction) : (s.setPending as).ivBuf = s.ivBuf := rfl
@[simp] theorem State.setPending_inBuf (s : State) (as : List HostAction) : (s.setPending as).inBuf = s.inBuf := rfl
@[simp] theorem State.setPending_outBuf (s : State) (as : List HostAction) : (s.setPending as).outBuf = s.outBuf := rfl
@[simp] theorem State.setPending_params (s : State) (as : List HostAction) : (s.setPending as).params = s.params := rfl
@[simp] theorem State.setPending_pending (s : State) (as : List HostAction) : (s.setPending as).pending = as := rfl
@[simp] theorem State.setPending_draws (s : State) (as : List HostAction) : (s.setPending as).draws = s.draws := rfl
@[simp] theorem State.setPending_answer (s : State) (as : List HostAction) : (s.setPending as).answer = s.answer := rfl

/-! ### countDraw -/

@[simp] theorem State.countDraw_k (s : State) : s.countDraw.k = s.k := rfl
@[simp] theorem State.countDraw_tables (s : State) : s.countDraw.tables = s.tables := rfl
@[simp] theorem State.countDraw_ctx (s : State) : s.countDraw.ctx = s.ctx := rfl
@[simp] theorem State.countDraw_err (s : State) : s.countDraw.err = s.err := rfl
@[simp] theorem State.countDraw_l (s : State) : s.countDraw.l = s.l := rfl
@[simp] theorem State.countDraw_r (s : State) : s.countDraw.r = s.r := rfl
@[simp] theorem State.countDraw_keyBuf (s : State) : s.countDraw.keyBuf = s.keyBuf := rfl
@[simp] theorem State.countDraw_ivBuf (s : State) : s.countDraw.ivBuf = s.ivBuf := rfl
@[simp] theorem State.countDraw_inBuf (s : State) : s.countDraw.inBuf = s.inBuf := rfl
@[simp] theorem State.countDraw_outBuf (s : State) : s.countDraw.outBuf = s.outBuf := rfl
@[simp] theorem State.countDraw_params (s : State) : s.countDraw.params = s.params := rfl
@[simp] theorem State.countDraw_pending (s : State) : s.countDraw.pending = s.pending := rfl
@[simp] theorem State.countDraw_draws (s : State) : s.countDraw.draws = s.draws + 1 := rfl
@[simp] theorem State.countDraw_answer (s : State) : s.countDraw.answer = s.answer := rfl

/-! ### reset -/

@[simp] theorem resetCore_k (s : State) : (resetCore s).k = Vector.replicate 8 0#32 := rfl
@[simp] theorem resetCore_tables (s : State) : (resetCore s).tables = ⟨Table.zero, Table.zero, Table.zero, Table.zero⟩ := rfl
@[simp] theorem resetCore_ctx (s : State) : (resetCore s).ctx = false := rfl
@[simp] theorem resetCore_err (s : State) : (resetCore s).err = 0#8 := rfl
@[simp] theorem resetCore_l (s : State) : (resetCore s).l = 0#32 := rfl
@[simp] theorem resetCore_r (s : State) : (resetCore s).r = 0#32 := rfl
@[simp] theorem resetCore_keyBuf (s : State) : (resetCore s).keyBuf = [] := rfl
@[simp] theorem resetCore_ivBuf (s : State) : (resetCore s).ivBuf = [] := rfl
@[simp] theorem resetCore_inBuf (s : State) : (resetCore s).inBuf = [] := rfl
@[simp] theorem resetCore_outBuf (s : State) : (resetCore s).outBuf = [] := rfl
@[simp] theorem resetCore_params (s : State) : (resetCore s).params = s.params := rfl
@[simp] theorem resetCore_pending (s : State) : (resetCore s).pending = s.pending := rfl
@[simp] theorem resetCore_draws (s : State) : (resetCore s).draws = s.draws := rfl
@[simp] theorem resetCore_answer (s : State) : (resetCore s).answer = s.answer := rfl
@[simp] theorem State.resetWith_k (p : Config.Params) : (State.resetWith p).k = Vector.replicate 8 0#32 := rfl
@[simp] theorem State.resetWith_tables (p : Config.Params) : (State.resetWith p).tables = ⟨Table.zero, Table.zero, Table.zero, Table.zero⟩ := rfl
@[simp] theorem State.resetWith_ctx (p : Config.Params) : (State.resetWith p).ctx = false := rfl
@[simp] theorem State.resetWith_err (p : Config.Params) : (State.resetWith p).err = 0#8 := rfl
@[simp] theorem State.resetWith_l (p : Config.Params) : (State.resetWith p).l = 0#32 := rfl
@[simp] theorem State.resetWith_r (p : Config.Params) : (State.resetWith p).r = 0#32 := rfl
@[simp] theorem State.resetWith_keyBuf (p : Config.Params) : (State.resetWith p).keyBuf = [] := rfl
@[simp] theorem State.resetWith_ivBuf (p : Config.Params) : (State.resetWith p).ivBuf = [] := rfl
@[simp] theorem State.resetWith_inBuf (p : Config.Params) : (State.resetWith p).inBuf = [] := rfl
@[simp] theorem State.resetWith_outBuf (p : Config.Params) : (State.resetWith p).outBuf = [] := rfl
@[simp] theorem State.resetWith_params (p : Config.Params) : (State.resetWith p).params = p := rfl
@[simp] theorem State.resetWith_pending (p : Config.Params) : (State.resetWith p).pending = [] := rfl
@[simp] theorem State.resetWith_draws (p : Config.Params) : (State.resetWith p).draws = 0 := rfl
@[simp] theorem State.resetWith_answer (p : Config.Params) : (State.resetWith p).answer = none := rfl
@[simp] theorem State.reset_k : State.reset.k = Vector.replicate 8 0#32 := rfl
@[simp] theorem State.reset_tables : State.reset.tables = ⟨Table.zero, Table.zero, Table.zero, Table.zero⟩ := rfl
@[simp] theorem State.reset_ctx : State.reset.ctx = false := rfl
@[simp] theorem State.reset_err : State.reset.err = 0#8 := rfl
@[simp] theorem State.reset_l : State.reset.l = 0#32 := rfl
@[simp] theorem State.reset_r : State.reset.r = 0#32 := rfl
@[simp] theorem State.reset_keyBuf : State.reset.keyBuf = [] := rfl
@[simp] theorem State.reset_ivBuf : State.reset.ivBuf = [] := rfl
@[simp] theorem State.reset_inBuf : State.reset.inBuf = [] := rfl
@[simp] theorem State.reset_outBuf : State.reset.outBuf = [] := rfl
@[simp] theorem State.reset_params : State.reset.params = defaultParams := rfl
@[simp] theorem State.reset_pending : State.reset.pending = [] := rfl
@[simp] theorem State.reset_draws : State.reset.draws = 0 := rfl
@[simp] theorem State.reset_answer : State.reset.answer = none := rfl

/-! ### Buffers -/

@[simp] theorem State.buffer_key (s : State) : s.buffer .key = s.keyBuf := rfl
@[simp] theorem State.buffer_iv (s : State) : s.buffer .iv = s.ivBuf := rfl
@[simp] theorem State.buffer_inp (s : State) : s.buffer .inp = s.inBuf := rfl
@[simp] theorem State.buffer_out (s : State) : s.buffer .out = s.outBuf := rfl

/-- Two states with the same four buffers read the same byte at every address. -/
theorem State.readByte_congr {s t : State} (hk : t.keyBuf = s.keyBuf) (hv : t.ivBuf = s.ivBuf) (hi : t.inBuf = s.inBuf)
    (ho : t.outBuf = s.outBuf) (b : Buf) (off : Nat) : t.readByte b off = s.readByte b off := by
  cases b <;> simp [State.readByte, *]

/-! ### ERR and STATUS -/

/-- No error cause has the success code. -/
@[simp] theorem errorCode_ne_zero (e : Error) : errorCode e ≠ 0#8 := by cases e <;> decide

/-- Every error code is legal (R28). -/
theorem errorCode_le_seven (e : Error) : (errorCode e).toNat ≤ 7 := by cases e <;> decide

@[simp] theorem errorCode_invalidKeySize : errorCode .invalidKeySize = 1#8 := rfl
@[simp] theorem errorCode_emptyInput : errorCode .emptyInput = 2#8 := rfl
@[simp] theorem errorCode_invalidIVSize : errorCode .invalidIVSize = 3#8 := rfl
@[simp] theorem errorCode_ciphertextTooShort : errorCode .ciphertextTooShort = 4#8 := rfl
@[simp] theorem errorCode_noContext : errorCode .noContext = 5#8 := rfl
@[simp] theorem errorCode_badLength : errorCode .badLength = 6#8 := rfl
@[simp] theorem errorCode_illegalCommand : errorCode .illegalCommand = 7#8 := rfl
@[simp] theorem successCode_eq : successCode = 0#8 := rfl

@[simp] theorem State.errf_eq (s : State) : s.errf = decide (s.err ≠ 0#8) := by
  by_cases h : s.err = 0#8 <;> simp [State.errf, h]

/-- The four values STATUS can read as (R27). -/
theorem State.status_eq (s : State) : s.status =
    match s.errf, s.ctx with
    | false, false => 0#8
    | false, true => 1#8
    | true, false => 2#8
    | true, true => 3#8 := by
  unfold State.status
  cases s.errf <;> cases s.ctx <;> rfl

end Sys2Proof.Machine
end

