-- ==== Sys2Proof/Laws/Memory.lean ====
section
/-! SUPPORT. The access primitives: when a read is defined and what it reads, read after write, the canonical form of the
cells of a buffer. -/

namespace Sys2Proof.Machine

/-! ### memRead -/

/-- A read is defined exactly inside the sequence (R14). -/
theorem memRead_isSome {buf : List Byte} {off n : Nat} : (memRead buf off n).isSome = true ↔ off + n ≤ buf.length := by
  unfold memRead; split <;> simp_all

/-- The bytes a read returns (R53). -/
theorem memRead_toList {buf : List Byte} {off n : Nat} {v : Vector Byte n} (h : memRead buf off n = some v) :
    v.toList = (buf.drop off).take n := by
  unfold memRead at h
  split at h
  · simp only [Option.some.injEq] at h
    simp [← h]
  · cases h

/-- A read inside the sequence returns the vector whose list is the slice. -/
theorem memRead_eq_some {buf : List Byte} {off n : Nat} {v : Vector Byte n} :
    memRead buf off n = some v ↔ off + n ≤ buf.length ∧ v.toList = (buf.drop off).take n := by
  constructor
  · intro h
    exact ⟨memRead_isSome.1 (by simp [h]), memRead_toList h⟩
  · rintro ⟨hle, hv⟩
    obtain ⟨w, hw⟩ := Option.isSome_iff_exists.1 (memRead_isSome.2 hle)
    rw [hw, Option.some.injEq, ← Vector.toList_inj, memRead_toList hw, hv]

/-- Byte `i` of what a read returns is the byte at `off + i` (R53). -/
theorem memRead_getElem {buf : List Byte} {off n : Nat} {v : Vector Byte n} (h : memRead buf off n = some v) (i : Nat)
    (hi : i < n) : some v[i] = buf[off + i]? := by
  have hv := memRead_toList h
  have : v.toList[i]? = ((buf.drop off).take n)[i]? := by rw [hv]
  simpa [List.getElem?_take, hi] using this

/-- A read in front of what is appended does not see it. -/
theorem memRead_append_left {a b : List Byte} {off n : Nat} (h : off + n ≤ a.length) :
    memRead (a ++ b) off n = memRead a off n := by
  obtain ⟨v, hv⟩ := Option.isSome_iff_exists.1 (memRead_isSome.2 h)
  rw [hv, memRead_eq_some]
  refine ⟨by simp; omega, ?_⟩
  rw [memRead_toList hv, List.drop_append_of_le_length (by omega), List.take_append_of_le_length (by simp; omega)]

/-- A read behind a prefix is a read of what follows it. -/
theorem memRead_append_right (a b : List Byte) (off n : Nat) : memRead (a ++ b) (a.length + off) n = memRead b off n := by
  unfold memRead
  by_cases h : off + n ≤ b.length
  · rw [dif_pos h, dif_pos (by simp; omega)]
    simp [List.drop_append, List.drop_eq_nil_of_le (Nat.le_add_right a.length off)]
  · rw [dif_neg h, dif_neg (by simp; omega)]

/-- The first block of a sequence that begins with it. -/
theorem memRead_block_zero (x : Block) (rest : List Byte) : memRead (x.toList ++ rest) 0 8 = some x := by
  rw [memRead_eq_some]
  simp

/-! ### Sequences of blocks -/

@[simp] theorem joinBlocks_nil : joinBlocks [] = [] := rfl

@[simp] theorem joinBlocks_cons (x : Block) (xs : List Block) : joinBlocks (x :: xs) = x.toList ++ joinBlocks xs := rfl

@[simp] theorem joinBlocks_length (xs : List Block) : (joinBlocks xs).length = 8 * xs.length := by
  induction xs with
  | nil => rfl
  | cons x xs ih => simp [ih]; omega

/-- Block `b` of a sequence of blocks stands at `8*b` (R90). -/
theorem memRead_joinBlocks (xs : List Block) (b : Nat) : memRead (joinBlocks xs) (8 * b) 8 = xs[b]? := by
  induction xs generalizing b with
  | nil =>
    have : ¬ (memRead (joinBlocks []) (8 * b) 8).isSome = true := by simp [memRead_isSome]
    simpa using this
  | cons x xs ih =>
    cases b with
    | zero => simpa using memRead_block_zero x (joinBlocks xs)
    | succ b =>
      have := memRead_append_right x.toList (joinBlocks xs) (8 * b) 8
      rw [Vector.length_toList, show 8 + 8 * b = 8 * (b + 1) by omega] at this
      simpa [ih b] using this

/-- A sequence of bytes is the join of one sequence of blocks at most. -/
theorem joinBlocks_inj {xs ys : List Block} (h : joinBlocks xs = joinBlocks ys) : xs = ys := by
  apply List.ext_getElem?
  intro b
  rw [← memRead_joinBlocks, ← memRead_joinBlocks, h]

/-- A sequence of whole blocks is the join of blocks. -/
theorem exists_joinBlocks (nb : Nat) (buf : List Byte) (h : buf.length = 8 * nb) :
    ∃ xs : List Block, buf = joinBlocks xs ∧ xs.length = nb := by
  induction nb generalizing buf with
  | zero => exact ⟨[], by simpa using h, rfl⟩
  | succ nb ih =>
    obtain ⟨xs, hxs, hn⟩ := ih (buf.drop 8) (by simp; omega)
    obtain ⟨x, hx⟩ := Option.isSome_iff_exists.1 (memRead_isSome (buf := buf) (off := 0) (n := 8) |>.2 (by omega))
    refine ⟨x :: xs, ?_, by simp [hn]⟩
    have := memRead_toList hx
    rw [joinBlocks_cons, ← hxs, this, List.drop_zero, List.take_append_drop]

/-- Reading the blocks of a sequence of blocks gives them back, behind any prefix. -/
theorem readBlocks_joinBlocks (pre : List Byte) (xs : List Block) (nb : Nat) (h : nb = xs.length) :
    readBlocks (pre ++ joinBlocks xs) pre.length nb = some xs := by
  subst h
  induction xs generalizing pre with
  | nil => rfl
  | cons x xs ih =>
    have hx : memRead (pre ++ joinBlocks (x :: xs)) pre.length 8 = some x := by
      have := memRead_append_right pre (joinBlocks (x :: xs)) 0 8
      rw [Nat.add_zero] at this
      rw [this]
      exact memRead_block_zero x _
    have hxs := ih (pre ++ x.toList)
    simp only [List.append_assoc, List.length_append, Vector.length_toList] at hxs
    simp only [List.length_cons, readBlocks, Config.blockBytes, hx]
    rw [joinBlocks_cons, hxs]

/-- The blocks a read of a whole number of blocks gives: the sequence is their join. -/
theorem readBlocks_whole (buf : List Byte) (h : buf.length % 8 = 0) :
    ∃ xs : List Block, readBlocks buf 0 (buf.length / 8) = some xs ∧ buf = joinBlocks xs ∧ 8 * xs.length = buf.length := by
  obtain ⟨xs, hb, hn⟩ := exists_joinBlocks (buf.length / 8) buf (by omega)
  refine ⟨xs, ?_, hb, by omega⟩
  have := readBlocks_joinBlocks [] xs (buf.length / 8) hn.symm
  simpa [← hb] using this

/-- The IV and the blocks of a CBC ciphertext (R91): the sequence is their join. -/
theorem readBlocks_behind_iv (buf : List Byte) (h8 : 8 ≤ buf.length) (h : (buf.length - 8) % 8 = 0) :
    ∃ (iv : Block) (xs : List Block), memRead buf 0 8 = some iv ∧ readBlocks buf 8 ((buf.length - 8) / 8) = some xs ∧
      buf = joinBlocks (iv :: xs) ∧ 8 + 8 * xs.length = buf.length := by
  obtain ⟨iv, hiv⟩ := Option.isSome_iff_exists.1 (memRead_isSome (buf := buf) (off := 0) (n := 8) |>.2 (by omega))
  obtain ⟨xs, hb, hn⟩ := exists_joinBlocks ((buf.length - 8) / 8) (buf.drop 8) (by simp; omega)
  have hbuf : buf = joinBlocks (iv :: xs) := by
    rw [joinBlocks_cons, ← hb, memRead_toList hiv, List.drop_zero, List.take_append_drop]
  refine ⟨iv, xs, hiv, ?_, hbuf, by omega⟩
  have := readBlocks_joinBlocks iv.toList xs _ hn.symm
  rw [Vector.length_toList, ← joinBlocks_cons, ← hbuf] at this
  exact this

/-! ### memWrite -/

/-- A write keeps the length of the buffer. -/
theorem memWrite_length {buf bs buf' : List Byte} {off : Nat} (h : memWrite buf off bs = some buf') :
    buf'.length = buf.length := by
  unfold memWrite at h
  split at h
  · simp only [Option.some.injEq] at h
    subst h
    simp; omega
  · cases h

/-- What every offset reads after a write (R53): the bytes written, and every other byte as before. -/
theorem memWrite_getElem? {buf bs buf' : List Byte} {off : Nat} (h : memWrite buf off bs = some buf') (j : Nat) :
    buf'[j]? = if off ≤ j ∧ j < off + bs.length then bs[j - off]? else buf[j]? := by
  unfold memWrite at h
  split at h
  · rename_i hle
    simp only [Option.some.injEq] at h
    subst h
    rw [List.append_assoc, List.getElem?_append]
    have ht : (buf.take off).length = off := by simp; omega
    rw [ht]
    by_cases h1 : j < off
    · rw [if_pos h1, if_neg (by omega), List.getElem?_take, if_pos h1]
    · rw [if_neg h1, List.getElem?_append]
      by_cases h2 : j < off + bs.length
      · rw [if_pos (by omega), if_pos (by omega)]
      · rw [if_neg (by omega), if_neg (by omega), List.getElem?_drop]
        congr 1; omega
  · cases h

/-! ### Cells (log entry 9) -/

theorem zipIdx_cells_wf (bs : List Byte) (n : Nat) :
    Memory.wf ((bs.zipIdx n).map fun p => (p.2, p.1)) ∧ ∀ c ∈ (bs.zipIdx n).map fun p => (p.2, p.1), n ≤ c.1 := by
  induction bs generalizing n with
  | nil => simp
  | cons b bs ih =>
    obtain ⟨hw, hge⟩ := ih (n + 1)
    simp only [List.zipIdx_cons, List.map_cons, List.pairwise_cons, List.mem_cons]
    refine ⟨⟨fun c hc => hge c hc, hw⟩, ?_⟩
    rintro c (rfl | hc)
    · exact Nat.le_refl _
    · exact Nat.le_of_succ_le (hge c hc)

/-- Every buffer of every state, so after every operation, has its cells in the canonical form. -/
theorem State.buffer_cells_wf (s : State) (b : Buf) : Memory.wf (cellsOf (s.buffer b)) := (zipIdx_cells_wf _ 0).1

/-- Equal cells are equal buffers. -/
theorem cellsOf_inj {a b : List Byte} (h : cellsOf a = cellsOf b) : a = b := by
  have := congrArg (List.map Prod.snd) h
  simpa [cellsOf, Function.comp_def] using this

end Sys2Proof.Machine
end

