-- ==== Sys2Proof/Laws/Ops.lean ====
section
/-! SUPPORT. What each shared operation of Machine/Ops.lean can do: how a command ends, one test of a command, one guarded
read. -/

namespace Sys2Proof.Machine

@[simp] theorem raiseError_eq (e : Error) (s : State) : raiseError e s = .next (s.setErr (errorCode e)) := rfl

@[simp] theorem complete_eq (s : State) : complete s = .next (s.setErr 0#8) := rfl

@[simp] theorem require_true (e : Error) (s : State) (rest : Outcome State) : require true e s rest = rest := rfl

@[simp] theorem require_false (e : Error) (s : State) (rest : Outcome State) :
    require false e s rest = raiseError e s := rfl

@[simp] theorem withRead_some {α : Type} (a : α) (rest : α → Outcome State) : withRead (some a) rest = rest a := rfl

@[simp] theorem withRead_none {α : Type} (rest : α → Outcome State) : withRead none rest = .fault .outOfBounds := rfl

/-- One test of a command: it raises its error, or the rest runs. -/
theorem require_cases {ok : Bool} {e : Error} {s t : State} {rest : Outcome State} (h : require ok e s rest = .next t) :
    (ok = false ∧ t = s.setErr (errorCode e)) ∨ (ok = true ∧ rest = .next t) := by
  cases ok
  · simp only [require_false, raiseError_eq, Host.Outcome.next.injEq] at h
    exact .inl ⟨rfl, h.symm⟩
  · exact .inr ⟨rfl, h⟩

/-- The context test of a command (R210). -/
theorem requireContext_cases {s t : State} {rest : Outcome State} (h : requireContext s rest = .next t) :
    (s.ctx = false ∧ t = s.setErr 5#8) ∨ (s.ctx = true ∧ rest = .next t) := require_cases h

theorem requireContext_true {s : State} (h : s.ctx = true) (rest : Outcome State) : requireContext s rest = rest := by
  simp [requireContext, h]

theorem requireContext_false {s : State} (h : s.ctx = false) (rest : Outcome State) :
    requireContext s rest = .next (s.setErr 5#8) := by
  simp [requireContext, h]

/-- A guarded read that leads to a next state has read something. -/
theorem withRead_cases {α : Type} {x : Option α} {rest : α → Outcome State} {t : State} (h : withRead x rest = .next t) :
    ∃ a, x = some a ∧ rest a = .next t := by
  cases x with
  | none => cases h
  | some a => exact ⟨a, rfl, h⟩

/-- A successful end that leads to a next state. -/
theorem complete_cases {s t : State} (h : complete s = .next t) : t = s.setErr 0#8 := by
  simpa using h.symm

end Sys2Proof.Machine
end

