-- ==== Sys2Proof/Laws/Padding.lean ====
section
/-! SUPPORT. Small lemmas about padding: the two forms of a padded sequence, its length, and the scan over a sequence whose
end is known. -/

namespace Sys2Proof.Machine

theorem alignToBlock_aligned {s : List Byte} (h : s.length % 8 = 0) : alignToBlock s = s := by
  simp [alignToBlock, h]

theorem alignToBlock_unaligned {s : List Byte} (h : s.length % 8 ≠ 0) :
    alignToBlock s = s ++ 0x80#8 :: List.replicate (8 - s.length % 8 - 1) 0#8 := by
  simp [alignToBlock, h]

/-- A padded sequence is a whole number of blocks. -/
theorem alignToBlock_length_mod (s : List Byte) : (alignToBlock s).length % 8 = 0 := by
  by_cases h : s.length % 8 = 0
  · rw [alignToBlock_aligned h, h]
  · rw [alignToBlock_unaligned h]
    simp
    omega

/-- Padding never shortens, and adds at most seven bytes. -/
theorem alignToBlock_length_bounds (s : List Byte) :
    s.length ≤ (alignToBlock s).length ∧ (alignToBlock s).length ≤ s.length + 7 := by
  by_cases h : s.length % 8 = 0
  · rw [alignToBlock_aligned h]; omega
  · rw [alignToBlock_unaligned h]
    simp
    omega

/-- The scan skips zeros. -/
theorem scanBack_replicate_append (n : Nat) (before : List Byte) :
    scanBack (List.replicate n 0#8 ++ before) = scanBack before := by
  induction n with
  | zero => rfl
  | succ n ih => simp [List.replicate_succ, scanBack, ih]

/-- The index found is that of a byte before the end (so `Strip` never lengthens). -/
theorem scanBack_lt {s : List Byte} {p : Nat} (h : scanBack s = some p) : p < s.length := by
  induction s with
  | nil => cases h
  | cons b s ih =>
    simp only [scanBack] at h
    split_ifs at h
    · exact Nat.lt_succ_of_lt (ih h)
    · simp only [Option.some.injEq] at h
      simp [← h]

/-- Everything the scan can find: behind zeros, the marker (the sequence is given last byte first). -/
theorem scanBack_eq_some (r : List Byte) (p : Nat) :
    scanBack r = some p ↔ ∃ n before, r = List.replicate n 0#8 ++ 0x80#8 :: before ∧ p = before.length := by
  induction r with
  | nil => simp [scanBack]
  | cons b r ih =>
    simp only [scanBack]
    split_ifs with h0 h1
    · subst h0
      rw [ih]
      constructor
      · rintro ⟨n, before, hr, hp⟩
        exact ⟨n + 1, before, by simp [List.replicate_succ, hr], hp⟩
      · rintro ⟨n, before, hr, hp⟩
        cases n with
        | zero => simp at hr
        | succ n => exact ⟨n, before, by simpa [List.replicate_succ] using hr, hp⟩
    · subst h1
      constructor
      · intro h
        simp only [Option.some.injEq] at h
        exact ⟨0, r, by simp, h.symm⟩
      · rintro ⟨n, before, hr, hp⟩
        cases n with
        | zero => simp at hr; simp [hr, hp]
        | succ n => simp [List.replicate_succ] at hr
    · constructor
      · intro h
        cases h
      · rintro ⟨n, before, hr, -⟩
        cases n with
        | zero => simp at hr; exact absurd hr.1 h1
        | succ n => simp [List.replicate_succ] at hr; exact absurd hr.1 h0

theorem strip_length_le (s : List Byte) : (strip s).length ≤ s.length := by
  unfold strip
  split <;> simp

end Sys2Proof.Machine
end

