-- ==== Sys2Proof/Laws/Commands.lean ====
section
/-! SUPPORT. One lemma per command that says everything it can do: the conditions of its tests in their order
(60_exceptions.md R213), and the state it answers in each case. Later proofs cite these and unfold no meaning.
The pair ENCB and DECB write is named by an equation, so that no proof compares two such pairs by running the 32 rounds. -/

namespace Sys2Proof.Machine

/-- INIT (R113). -/
theorem execInit_spec (s : State) :
    (s.keyBuf.length ≠ 32 ∧ execInit s = .next (s.setErr 1#8)) ∨
    (s.keyBuf.length = 32 ∧ ∃ v : Vector Byte 32, v.toList = s.keyBuf ∧
      execInit s = .next ((s.setContext (keySchedule v) (tableBuild s.params.sbox)).setErr 0#8)) := by
  by_cases h : s.keyBuf.length = 32
  · obtain ⟨v, hv⟩ := Option.isSome_iff_exists.1 (memRead_isSome (buf := s.keyBuf) (off := 0) (n := 32) |>.2 (by omega))
    refine .inr ⟨h, v, ?_, ?_⟩
    · rw [memRead_toList hv, List.drop_zero, ← h, List.take_length]
    · simp [execInit, h, hv]
  · exact .inl ⟨h, by simp [execInit, require, h]⟩

/-- ENCB (R136). -/
theorem execEncb_spec (s : State) :
    (s.ctx = false ∧ execEncb s = .next (s.setErr 5#8)) ∨
    (s.ctx = true ∧ ∃ p, p = encrypt s.k s.tables (s.l, s.r) ∧ execEncb s = .next ((s.setLR p).setErr 0#8)) := by
  cases h : s.ctx
  · exact .inl ⟨rfl, requireContext_false h _⟩
  · exact .inr ⟨rfl, _, rfl, requireContext_true h _⟩

/-- DECB (R137). -/
theorem execDecb_spec (s : State) :
    (s.ctx = false ∧ execDecb s = .next (s.setErr 5#8)) ∨
    (s.ctx = true ∧ ∃ p, p = decrypt s.k s.tables (s.l, s.r) ∧ execDecb s = .next ((s.setLR p).setErr 0#8)) := by
  cases h : s.ctx
  · exact .inl ⟨rfl, requireContext_false h _⟩
  · exact .inr ⟨rfl, _, rfl, requireContext_true h _⟩

/-- ECBE (R166). -/
theorem execEcbe_spec (s : State) :
    (s.ctx = false ∧ execEcbe s = .next (s.setErr 5#8)) ∨
    (s.ctx = true ∧ s.inBuf = [] ∧ execEcbe s = .next (s.setErr 2#8)) ∨
    (s.ctx = true ∧ s.inBuf ≠ [] ∧ ∃ ps : List Block, alignToBlock s.inBuf = joinBlocks ps ∧
      execEcbe s = .next ((s.setOut (joinBlocks (ps.map (encryptBlock s.k s.tables)))).setErr 0#8)) := by
  cases h : s.ctx
  · exact .inl ⟨rfl, requireContext_false h _⟩
  · by_cases hi : s.inBuf = []
    · exact .inr (.inl ⟨rfl, hi, by simp [execEcbe, requireContext_true h, hi]⟩)
    · obtain ⟨ps, hr, hp, -⟩ := readBlocks_whole _ (alignToBlock_length_mod s.inBuf)
      exact .inr (.inr ⟨rfl, hi, ps, hp, by simp [execEcbe, requireContext_true h, require, hi, hr]⟩)

/-- ECBD (R168). -/
theorem execEcbd_spec (s : State) :
    (s.ctx = false ∧ execEcbd s = .next (s.setErr 5#8)) ∨
    (s.ctx = true ∧ s.inBuf = [] ∧ execEcbd s = .next (s.setErr 2#8)) ∨
    (s.ctx = true ∧ s.inBuf ≠ [] ∧ s.inBuf.length % 8 ≠ 0 ∧ execEcbd s = .next (s.setErr 6#8)) ∨
    (s.ctx = true ∧ s.inBuf ≠ [] ∧ s.inBuf.length % 8 = 0 ∧ ∃ cs : List Block, s.inBuf = joinBlocks cs ∧
      execEcbd s = .next ((s.setOut (strip (joinBlocks (cs.map (decryptBlock s.k s.tables))))).setErr 0#8)) := by
  cases h : s.ctx
  · exact .inl ⟨rfl, requireContext_false h _⟩
  · by_cases hi : s.inBuf = []
    · exact .inr (.inl ⟨rfl, hi, by simp [execEcbd, requireContext_true h, hi]⟩)
    · by_cases hm : s.inBuf.length % 8 = 0
      · obtain ⟨cs, hr, hp, -⟩ := readBlocks_whole _ hm
        exact .inr (.inr (.inr ⟨rfl, hi, hm, cs, hp,
          by simp [execEcbd, requireContext_true h, require, hi, hm, hr]⟩))
      · exact .inr (.inr (.inl ⟨rfl, hi, hm, by simp [execEcbd, requireContext_true h, require, hi, hm]⟩))

/-- What CBCE and CBCEI share (R183, R184). -/
theorem cbcEncryptInput_spec (iv : Block) (s : State) :
    (s.inBuf = [] ∧ cbcEncryptInput iv s = .next (s.setErr 2#8)) ∨
    (s.inBuf ≠ [] ∧ ∃ ps : List Block, alignToBlock s.inBuf = joinBlocks ps ∧
      cbcEncryptInput iv s = .next ((s.setOut (cbcEnc s.k s.tables ps iv)).setErr 0#8)) := by
  by_cases hi : s.inBuf = []
  · exact .inl ⟨hi, by simp [cbcEncryptInput, hi]⟩
  · obtain ⟨ps, hr, hp, -⟩ := readBlocks_whole _ (alignToBlock_length_mod s.inBuf)
    exact .inr ⟨hi, ps, hp, by simp [cbcEncryptInput, require, hi, hr]⟩

/-- CBCE (R184). -/
theorem execCbce_spec (s : State) :
    (s.ctx = false ∧ execCbce s = .next (s.setErr 5#8)) ∨
    (s.ctx = true ∧ s.inBuf = [] ∧ execCbce s = .next (s.countDraw.setErr 2#8)) ∨
    (s.ctx = true ∧ s.inBuf ≠ [] ∧ ∃ ps : List Block, alignToBlock s.inBuf = joinBlocks ps ∧
      execCbce s = .next ((s.countDraw.setOut (cbcEnc s.k s.tables ps s.drawnIv)).setErr 0#8)) := by
  cases h : s.ctx
  · exact .inl ⟨rfl, requireContext_false h _⟩
  · have he : execCbce s = cbcEncryptInput s.drawnIv s.countDraw := requireContext_true h _
    rw [he]
    rcases cbcEncryptInput_spec s.drawnIv s.countDraw with ⟨hi, hx⟩ | ⟨hi, ps, hp, hx⟩
    · exact .inr (.inl ⟨rfl, hi, hx⟩)
    · exact .inr (.inr ⟨rfl, hi, ps, hp, hx⟩)

/-- CBCEI (R183). -/
theorem execCbcei_spec (s : State) :
    (s.ctx = false ∧ execCbcei s = .next (s.setErr 5#8)) ∨
    (s.ctx = true ∧ s.ivBuf.length ≠ 8 ∧ execCbcei s = .next (s.setErr 3#8)) ∨
    (s.ctx = true ∧ s.ivBuf.length = 8 ∧ s.inBuf = [] ∧ execCbcei s = .next (s.setErr 2#8)) ∨
    (s.ctx = true ∧ s.ivBuf.length = 8 ∧ s.inBuf ≠ [] ∧ ∃ (iv : Block) (ps : List Block), iv.toList = s.ivBuf ∧
      alignToBlock s.inBuf = joinBlocks ps ∧
      execCbcei s = .next ((s.setOut (cbcEnc s.k s.tables ps iv)).setErr 0#8)) := by
  cases h : s.ctx
  · exact .inl ⟨rfl, requireContext_false h _⟩
  · by_cases hv : s.ivBuf.length = 8
    · obtain ⟨iv, hiv⟩ := Option.isSome_iff_exists.1 (memRead_isSome (buf := s.ivBuf) (off := 0) (n := 8) |>.2 (by omega))
      have hl : iv.toList = s.ivBuf := by rw [memRead_toList hiv, List.drop_zero, ← hv, List.take_length]
      have he : execCbcei s = cbcEncryptInput iv s := by simp [execCbcei, requireContext_true h, hv, hiv]
      rw [he]
      rcases cbcEncryptInput_spec iv s with ⟨hi, hx⟩ | ⟨hi, ps, hp, hx⟩
      · exact .inr (.inr (.inl ⟨rfl, hv, hi, hx⟩))
      · exact .inr (.inr (.inr ⟨rfl, hv, hi, iv, ps, hl, hp, hx⟩))
    · exact .inr (.inl ⟨rfl, hv, by simp [execCbcei, requireContext_true h, require, hv]⟩)

/-- CBCD (R186). -/
theorem execCbcd_spec (s : State) :
    (s.ctx = false ∧ execCbcd s = .next (s.setErr 5#8)) ∨
    (s.ctx = true ∧ s.inBuf.length ≤ 8 ∧ execCbcd s = .next (s.setErr 4#8)) ∨
    (s.ctx = true ∧ 8 < s.inBuf.length ∧ (s.inBuf.length - 8) % 8 ≠ 0 ∧ execCbcd s = .next (s.setErr 6#8)) ∨
    (s.ctx = true ∧ 8 < s.inBuf.length ∧ (s.inBuf.length - 8) % 8 = 0 ∧ ∃ (iv : Block) (cs : List Block),
      s.inBuf = joinBlocks (iv :: cs) ∧
      execCbcd s = .next ((s.setOut (strip (cbcDec s.k s.tables iv cs))).setErr 0#8)) := by
  cases h : s.ctx
  · exact .inl ⟨rfl, requireContext_false h _⟩
  · by_cases hl : 8 < s.inBuf.length
    · by_cases hm : (s.inBuf.length - 8) % 8 = 0
      · obtain ⟨iv, cs, hiv, hcs, hb, -⟩ := readBlocks_behind_iv _ hl.le hm
        exact .inr (.inr (.inr ⟨rfl, hl, hm, iv, cs, hb,
          by simp [execCbcd, requireContext_true h, hl, hm, hiv, hcs]⟩))
      · exact .inr (.inr (.inl ⟨rfl, hl, hm, by simp [execCbcd, requireContext_true h, require, hl, hm]⟩))
    · exact .inr (.inl ⟨rfl, by omega, by simp [execCbcd, requireContext_true h, require, hl]⟩)

/-! ### Mode blocks -/

/-- Block `b` of a CBC encryption: the IV, or the ciphertext block before it, enters (R182). -/
theorem cbcChain_getElem? (k : Subkeys) (t : Tables) (iv : Block) (ps : List Block) (b : Nat) (hb : b < ps.length) :
    ∃ prev, (iv :: cbcChain k t iv ps)[b]? = some prev ∧
      (iv :: cbcChain k t iv ps)[b + 1]? = some (encryptBlock k t (xor8 ps[b] prev)) := by
  induction ps generalizing iv b with
  | nil => simp at hb
  | cons p ps ih =>
    cases b with
    | zero => exact ⟨iv, by simp, by simp [cbcChain]⟩
    | succ b =>
      obtain ⟨prev, h1, h2⟩ := ih (encryptBlock k t (xor8 p iv)) b (by simpa using hb)
      exact ⟨prev, by simpa [cbcChain] using h1, by simpa [cbcChain] using h2⟩

/-- Block `b` of a CBC decryption (R185). -/
theorem cbcUnchain_getElem? (k : Subkeys) (t : Tables) (iv : Block) (cs : List Block) (b : Nat) (hb : b < cs.length) :
    ∃ prev, (iv :: cs)[b]? = some prev ∧
      (cbcUnchain k t iv cs)[b]? = some (xor8 (decryptBlock k t cs[b]) prev) := by
  induction cs generalizing iv b with
  | nil => simp at hb
  | cons c cs ih =>
    cases b with
    | zero => exact ⟨iv, by simp, by simp [cbcUnchain]⟩
    | succ b =>
      obtain ⟨prev, h1, h2⟩ := ih c b (by simpa using hb)
      exact ⟨prev, by simpa using h1, by simpa [cbcUnchain] using h2⟩

/-! ### Mode lengths -/

@[simp] theorem cbcChain_length (k : Subkeys) (t : Tables) (prev : Block) (ps : List Block) :
    (cbcChain k t prev ps).length = ps.length := by
  induction ps generalizing prev with
  | nil => rfl
  | cons p ps ih => simp [cbcChain, ih]

@[simp] theorem cbcUnchain_length (k : Subkeys) (t : Tables) (prev : Block) (cs : List Block) :
    (cbcUnchain k t prev cs).length = cs.length := by
  induction cs generalizing prev with
  | nil => rfl
  | cons c cs ih => simp [cbcUnchain, ih]

@[simp] theorem cbcEnc_length (k : Subkeys) (t : Tables) (ps : List Block) (iv : Block) :
    (cbcEnc k t ps iv).length = 8 + 8 * ps.length := by
  simp [cbcEnc]

@[simp] theorem cbcDec_length (k : Subkeys) (t : Tables) (iv : Block) (cs : List Block) :
    (cbcDec k t iv cs).length = 8 * cs.length := by
  simp [cbcDec]

end Sys2Proof.Machine
end

