-- ==== Sys2Proof/Laws/Feistel.lean ====
section
/-! SUPPORT. One round of the Feistel network: it undoes itself, and what it does to exchanged halves; and the rounds of a
whole pass, one at a time. -/

namespace Sys2Proof.Machine

/-- A round applied twice with the same number and subkey is no change: the half it updates takes the same exclusive or
twice. -/
theorem feistelRound_self_inverse (t : Tables) (i : Nat) (sk : Word) (n : Word × Word) :
    feistelRound t i sk (feistelRound t i sk n) = n := by
  unfold feistelRound
  split <;> simp

/-- On exchanged halves a round of the other parity does the same. -/
theorem feistelRound_swap {i j : Nat} (h : i % 2 ≠ j % 2) (t : Tables) (sk : Word) (n : Word × Word) :
    feistelRound t i sk n.swap = (feistelRound t j sk n).swap := by
  have : i % 2 = 1 ∧ j % 2 ≠ 1 ∨ i % 2 ≠ 1 ∧ j % 2 = 1 := by omega
  rcases this with ⟨hi, hj⟩ | ⟨hi, hj⟩ <;> simp [feistelRound, hi, hj]

/-- `n` rounds from round number `a`. -/
def roundsFrom (k : Subkeys) (t : Tables) (seq : Nat → Fin 8) (a n : Nat) (x : Word × Word) : Word × Word :=
  (List.range' a n).foldl (fun x i => feistelRound t i k[seq i] x) x

@[simp] theorem roundsFrom_zero (k : Subkeys) (t : Tables) (seq : Nat → Fin 8) (a : Nat) (x : Word × Word) :
    roundsFrom k t seq a 0 x = x := rfl

theorem roundsFrom_succ (k : Subkeys) (t : Tables) (seq : Nat → Fin 8) (a n : Nat) (x : Word × Word) :
    roundsFrom k t seq a (n + 1) x = roundsFrom k t seq (a + 1) n (feistelRound t a k[seq a] x) := by
  simp [roundsFrom, List.range'_succ]

theorem roundsFrom_succ_last (k : Subkeys) (t : Tables) (seq : Nat → Fin 8) (a n : Nat) (x : Word × Word) :
    roundsFrom k t seq a (n + 1) x = feistelRound t (a + n) k[seq (a + n)] (roundsFrom k t seq a n x) := by
  simp [roundsFrom, List.range'_concat]

theorem encrypt_eq_roundsFrom (k : Subkeys) (t : Tables) (p : Word × Word) :
    encrypt k t p = (roundsFrom k t encSeq 1 32 p).swap := rfl

theorem decrypt_eq_roundsFrom (k : Subkeys) (t : Tables) (p : Word × Word) :
    decrypt k t p = (roundsFrom k t decSeq 1 32 p).swap := rfl

end Sys2Proof.Machine
end

