-- ==== Sys2Proof/Laws/Operands.lean ====
section
/-! SUPPORT. The bits of a word made of four bytes, that words and bytes convert both ways, and the exclusive or of
blocks. -/

namespace Sys2Proof.Machine

/-- Which byte each bit of a word comes from. -/
theorem getLsbD_wordOfBytes (a b c d : Byte) (i : Nat) : (wordOfBytes a b c d).getLsbD i =
    if i < 8 then d.getLsbD i else if i < 16 then c.getLsbD (i - 8) else if i < 24 then b.getLsbD (i - 16)
    else a.getLsbD (i - 24) := by
  unfold wordOfBytes
  simp only [BitVec.getLsbD_append, Nat.sub_sub]
  split_ifs <;> first | rfl | omega

@[simp] theorem byte3_wordOfBytes (a b c d : Byte) : byte3 (wordOfBytes a b c d) = a := by
  apply BitVec.eq_of_getLsbD_eq
  intro i hi
  simp only [byte3, BitVec.getLsbD_extractLsb', getLsbD_wordOfBytes, hi, decide_true, Bool.true_and]
  rw [if_neg (by omega), if_neg (by omega), if_neg (by omega), Nat.add_sub_cancel_left]

@[simp] theorem byte2_wordOfBytes (a b c d : Byte) : byte2 (wordOfBytes a b c d) = b := by
  apply BitVec.eq_of_getLsbD_eq
  intro i hi
  simp only [byte2, BitVec.getLsbD_extractLsb', getLsbD_wordOfBytes, hi, decide_true, Bool.true_and]
  rw [if_neg (by omega), if_neg (by omega), if_pos (by omega), Nat.add_sub_cancel_left]

@[simp] theorem byte1_wordOfBytes (a b c d : Byte) : byte1 (wordOfBytes a b c d) = c := by
  apply BitVec.eq_of_getLsbD_eq
  intro i hi
  simp only [byte1, BitVec.getLsbD_extractLsb', getLsbD_wordOfBytes, hi, decide_true, Bool.true_and]
  rw [if_neg (by omega), if_pos (by omega), Nat.add_sub_cancel_left]

@[simp] theorem byte0_wordOfBytes (a b c d : Byte) : byte0 (wordOfBytes a b c d) = d := by
  apply BitVec.eq_of_getLsbD_eq
  intro i hi
  simp only [byte0, BitVec.getLsbD_extractLsb', getLsbD_wordOfBytes, hi, decide_true, Bool.true_and, Nat.zero_add,
    if_true]

/-- A word is its four bytes. -/
@[simp] theorem wordOfBytes_bytes (w : Word) : wordOfBytes (byte3 w) (byte2 w) (byte1 w) (byte0 w) = w := by
  apply BitVec.eq_of_getLsbD_eq
  intro i hi
  simp only [getLsbD_wordOfBytes, byte3, byte2, byte1, byte0, BitVec.getLsbD_extractLsb']
  split_ifs with h0 h1 h2
  · simp [h0]
  · rw [decide_eq_true (by omega), Bool.true_and, show 8 + (i - 8) = i by omega]
  · rw [decide_eq_true (by omega), Bool.true_and, show 16 + (i - 16) = i by omega]
  · rw [decide_eq_true (by omega), Bool.true_and, show 24 + (i - 24) = i by omega]

/-- Exclusive or with the same block twice is no change. -/
@[simp] theorem xor8_xor8 (s t : Block) : xor8 (xor8 s t) t = s := by
  ext i hi
  have : i = 0 ∨ i = 1 ∨ i = 2 ∨ i = 3 ∨ i = 4 ∨ i = 5 ∨ i = 6 ∨ i = 7 := by omega
  rcases this with h | h | h | h | h | h | h | h <;> subst h <;> simp [xor8]

/-- Exclusive or with the zero block is no change. -/
@[simp] theorem xor8_zero (s : Block) : xor8 s (Vector.replicate 8 0#8) = s := by
  ext i hi
  have : i = 0 ∨ i = 1 ∨ i = 2 ∨ i = 3 ∨ i = 4 ∨ i = 5 ∨ i = 6 ∨ i = 7 := by omega
  rcases this with h | h | h | h | h | h | h | h <;> subst h <;> simp [xor8]

end Sys2Proof.Machine
end

