-- ==== Sys2Proof/Laws/PerInstr.lean ====
section
/-! SUPPORT. Per command: it is well formed and its opcode is one of the eight of the map (30_encoding.md R81). -/

namespace Sys2Proof.Laws.Opcode

/-- The command is well formed and its byte lies in the opcode map. -/
def Statement (i : Instr) : Prop := i.wellFormed = true ∧ 1 ≤ (encode i).toNat ∧ (encode i).toNat ≤ 8

theorem init : Statement .init := ⟨rfl, by decide, by decide⟩
theorem encb : Statement .encb := ⟨rfl, by decide, by decide⟩
theorem decb : Statement .decb := ⟨rfl, by decide, by decide⟩
theorem ecbe : Statement .ecbe := ⟨rfl, by decide, by decide⟩
theorem ecbd : Statement .ecbd := ⟨rfl, by decide, by decide⟩
theorem cbce : Statement .cbce := ⟨rfl, by decide, by decide⟩
theorem cbcei : Statement .cbcei := ⟨rfl, by decide, by decide⟩
theorem cbcd : Statement .cbcd := ⟨rfl, by decide, by decide⟩

end Sys2Proof.Laws.Opcode
end

