-- ==== Sys2Proof/Laws/Step.lean ====
section
/-! SUPPORT. What one step can do: it waits, or takes the oldest host action; and what a CMD byte does. -/

namespace Sys2Proof.Machine

/-- A host action that can be presented has its effect. -/
@[simp] theorem hostStep_presentable {a : HostAction} {s : State} (h : a.presentable s.params = true) :
    hostStep a s = hostEffect a s := by
  simp [hostStep, h]

/-- A host write that cannot be presented is refused (R34, U9). -/
@[simp] theorem hostStep_overlong {a : HostAction} {s : State} (h : a.presentable s.params = false) :
    hostStep a s = .refused .cannotBePresented := by
  simp [hostStep, h]

/-- A host action that answers a next state could be presented and had its effect. -/
theorem hostStep_cases {a : HostAction} {s t : State} (h : hostStep a s = .next t) :
    a.presentable s.params = true ∧ hostEffect a s = .next t := by
  unfold hostStep at h
  split at h
  · exact ⟨‹_›, h⟩
  · cases h

@[simp] theorem step_waiting {s : State} (h : s.pending = []) : step s = .next s := by
  simp [step, runPending, h]

@[simp] theorem step_pending {s : State} {a : HostAction} {rest : List HostAction} (h : s.pending = a :: rest) :
    step s = hostStep a (s.setPending rest) := by
  simp [step, runPending, h]

/-- A step whose oldest action can be presented. -/
theorem step_presentable {s : State} {a : HostAction} {rest : List HostAction} (h : s.pending = a :: rest)
    (ha : a.presentable s.params = true) : step s = hostEffect a (s.setPending rest) :=
  (step_pending h).trans (hostStep_presentable ha)

/-- A step whose oldest action cannot be presented. -/
theorem step_overlong {s : State} {a : HostAction} {rest : List HostAction} (h : s.pending = a :: rest)
    (ha : a.presentable s.params = false) : step s = .refused .cannotBePresented :=
  (step_pending h).trans (hostStep_overlong ha)

/-- A step that answers a next state waited, or took the oldest action. -/
theorem step_cases {s t : State} (h : step s = .next t) :
    (s.pending = [] ∧ t = s) ∨
    (∃ a rest, s.pending = a :: rest ∧ a.presentable s.params = true ∧
      hostEffect a (s.setPending rest) = .next t) := by
  cases hp : s.pending with
  | nil =>
    rw [step_waiting hp, Host.Outcome.next.injEq] at h
    exact .inl ⟨rfl, h.symm⟩
  | cons a rest =>
    rw [step_pending hp] at h
    exact .inr ⟨a, rest, rfl, hostStep_cases h⟩

/-- What one step keeps, every run keeps. -/
theorem run_keeps {P : State → Prop} (keeps : ∀ s t, P s → step s = .next t → P t) (n : Nat) {s t : State} (hs : P s)
    (h : core.run n s = .next t) : P t := by
  induction n generalizing s with
  | zero =>
    cases h
    exact hs
  | succ n ih =>
    simp only [Host.Core.run] at h
    split at h
    · exact ih (keeps _ _ hs ‹_›) h
    · cases h
    · cases h

/-- A byte is the opcode of a command, or outside the map. -/
theorem decode_cases (c : Byte) :
    (∃ i, decode c = .ok i ∧ c = encode i) ∨ (decode c = .error (.illegalCommand c) ∧ ∀ i, c ≠ encode i) := by
  unfold decode
  split
  case h_9 h1 h2 h3 h4 h5 h6 h7 h8 =>
    refine .inr ⟨rfl, fun i => ?_⟩
    cases i <;> assumption
  all_goals exact .inl ⟨_, rfl, rfl⟩

theorem issueCommand_ok {c : Byte} {i : Instr} (h : decode c = .ok i) (s : State) : issueCommand c s = exec i s := by
  simp [issueCommand, h]

theorem issueCommand_error {c : Byte} {e : DecodeError} (h : decode c = .error e) (s : State) :
    issueCommand c s = .next (s.setErr 7#8) := by
  simp [issueCommand, h]

@[simp] theorem withFetchWord_pending (s : State) (nbits w : Nat) :
    (s.withFetchWord nbits w).pending = .writeCmd (tableByte nbits w) :: s.pending := rfl

/-- Taking the placed command off the list again gives the state it was placed in. -/
@[simp] theorem withFetchWord_setPending (s : State) (nbits w : Nat) :
    (s.withFetchWord nbits w).setPending s.pending = s := rfl

end Sys2Proof.Machine
end

