-- ==== Sys2Proof/Tests/Slice0.lean ====
section
/-! SUPPORT. The model's own tests (expected results from spec/95_test_vectors.md and the rules' worked examples), the smoke
test of WellFormed, and for every statement with hypotheses a witness that meets them. -/

namespace Sys2Proof.Tests

open Sys2Proof Sys2Proof.Machine

/-! ### Helpers -/

/-- The core after INIT with the key of S1 (its subkeys are 0 to 7). -/
def ready : State := { State.reset with k := #v[0#32, 1#32, 2#32, 3#32, 4#32, 5#32, 6#32, 7#32], tables := tableBuild sbox, ctx := true }

/-- The 32 key bytes `00 01 .. 1F` (R111). -/
def keyBytes : List Byte := (List.range 32).map (BitVec.ofNat 8)

/-- The IV of S4. -/
def ivS4 : Block := #v[0xF8#8, 0xA4#8, 0x9E#8, 0x45#8, 0x40#8, 0xA5#8, 0x65#8, 0xC8#8]

/-- The bytes of "abc". -/
def abc : List Byte := [0x61#8, 0x62#8, 0x63#8]

/-- The next state of an outcome, if it is one. -/
def result : Outcome State → Option State
  | .next t => some t
  | .fault _ => none
  | .refused _ => none

theorem eq_next_of_result {o : Outcome State} (h : (result o).isSome = true) : o = .next ((result o).get h) := by
  cases o with
  | next t => rfl
  | fault r => cases h
  | refused r => cases h

/-! ### Decoding: words written out from R81, and the first bytes outside the map (R82) -/

theorem test_decode_init : decode 0b00000001#8 = .ok .init := by decide
theorem test_decode_encb : decode 0b00000010#8 = .ok .encb := by decide
theorem test_decode_decb : decode 0b00000011#8 = .ok .decb := by decide
theorem test_decode_ecbe : decode 0b00000100#8 = .ok .ecbe := by decide
theorem test_decode_ecbd : decode 0b00000101#8 = .ok .ecbd := by decide
theorem test_decode_cbce : decode 0b00000110#8 = .ok .cbce := by decide
theorem test_decode_cbcei : decode 0b00000111#8 = .ok .cbcei := by decide
theorem test_decode_cbcd : decode 0b00001000#8 = .ok .cbcd := by decide
theorem test_decode_zero : decode 0b00000000#8 = .error (.illegalCommand 0x00#8) := by decide
theorem test_decode_nine : decode 0b00001001#8 = .error (.illegalCommand 0x09#8) := by decide
theorem test_decode_high_bit : decode 0b10000001#8 = .error (.illegalCommand 0x81#8) := by decide

/-- The table's rows are eight bits (spec/opcode_table.json). -/
theorem test_table_word : decodeTableWord 8 0x07 = some .cbcei ∧ decodeTableWord 8 0xFF = none := by decide

/-- The placed command byte is what the next step issues: ENCB before INIT ends in `NoContext` (V9). -/
theorem test_withFetchWord : (result (step (State.reset.withFetchWord 8 0x02))).map (fun t => (t.err, t.pending)) =
    some (5#8, []) := by decide

/-- The encoding of PR1: `01 02 03 02`. -/
theorem test_program_encoding : programEncoding
    [.act .reset, .act (.writeKey keyBytes), .cmd .init, .act (.read .err), .cmd .encb, .cmd .decb, .cmd .encb] =
    [0x01#8, 0x02#8, 0x03#8, 0x02#8] := by decide

/-! ### WellFormed: an ill-formed host action for each of its checks (R34) -/

theorem test_wellFormed_instr : Instr.wellFormed .cbcd = true := by decide

/-- A core with the least capacities R8 allows. -/
def small : Config.Params := { defaultParams with keyCap := 32, ivCap := 8, maxLen := some 8 }

theorem test_wellFormed_key_over :
    programWellFormed small [.act .reset, .act (.writeKey (List.replicate 33 0#8))] = false := by decide

theorem test_wellFormed_initt_over : programWellFormed small [.initt (List.replicate 33 0#8)] = false := by decide

theorem test_wellFormed_iv_over : programWellFormed small [.act (.writeIv (List.replicate 9 0#8))] = false := by decide

theorem test_wellFormed_in_over : programWellFormed small [.act (.writeIn (List.replicate 9 0#8))] = false := by decide

/-- A key of 32 bytes, an IV of 8 and an input of 8 can be presented to every core (R8). -/
theorem test_wellFormed_program : programWellFormed small [.act (.writeKey keyBytes), .act (.writeIv ivS4.toList),
    .act (.writeIn (List.replicate 8 0#8)), .cmd .init, .cmd .cbcei, .release] = true := by decide

/-- U9: an over-long write is refused. -/
theorem test_overlong_write : step { State.resetWith small with pending := [.writeIn (List.replicate 9 0#8)] } =
    .refused .cannotBePresented := rfl

/-- R7: another core, whose boxes `K1` and `K7` are exchanged, builds other tables: by R110 `T1[0] = (14 << 4) | 13`. -/
theorem test_init_other_boxes : (result (exec .init { State.resetWith
      { defaultParams with sbox := { sbox with k1 := sbox.k7, k7 := sbox.k1 } } with keyBuf := keyBytes })).map
    (fun t => t.tables.t1.get 0x00#8) = some 0xED#8 := by decide +kernel

/-! ### Commands -/

/-- V4, second row. -/
theorem test_init_subkeys : (result (exec .init { State.reset with keyBuf := keyBytes })).map (fun t => (t.k[0], t.k[7], t.ctx)) =
    some (0x03020100#32, 0x1F1E1D1C#32, true) := by decide +kernel

/-- R110, worked example: `T1[0x00]`, `T1[0x10]`, `T4[0xFF]`; V1: `T2[0x10]`, `T3[0xF0]`. -/
theorem test_init_tables : (result (exec .init { State.reset with keyBuf := keyBytes })).map (fun t =>
      (t.tables.t1.get 0x00#8, t.tables.t1.get 0x10#8, t.tables.t4.get 0xFF#8, t.tables.t2.get 0x10#8, t.tables.t3.get 0xF0#8)) =
    some (0xEF#8, 0x4F#8, 0x17#8, 0x07#8, 0x9C#8) := by decide +kernel

/-- S1. -/
theorem test_encb_zero_block : (result (exec .encb ready)).map (fun t => (t.l, t.r, t.err)) =
    some (0x37EF7123#32, 0x361B7184#32, 0#8) := by decide +kernel

/-- V5, the row with halves 0 and 1: it tells the reading of the round order from its mirror image. -/
theorem test_encb_unequal_halves : (result (exec .encb { ready with r := 1#32 })).map (fun t => (t.l, t.r)) =
    some (0xC79C4EF4#32, 0x27AC9149#32) := by decide +kernel

/-- S2, backward. -/
theorem test_decb_all_ones : (result (exec .decb { ready with l := 0xF9709623#32, r := 0x56AD8D77#32 })).map (fun t => (t.l, t.r)) =
    some (0xFFFFFFFF#32, 0xFFFFFFFF#32) := by decide +kernel

/-- V5. -/
theorem test_decb_unequal_halves : (result (exec .decb { ready with l := 0x01234567#32, r := 0x89ABCDEF#32 })).map (fun t => (t.l, t.r)) =
    some (0x2A8B5315#32, 0x5FAA3115#32) := by decide +kernel

/-- V10. -/
theorem test_ecbe_abc : (result (exec .ecbe { ready with inBuf := abc })).map (fun t => (t.outBuf, t.inBuf)) =
    some ([0x49#8, 0xBE#8, 0xE2#8, 0xC7#8, 0x03#8, 0x4F#8, 0x52#8, 0xEA#8], abc) := by decide +kernel

/-- V10: two blocks, the second padded. -/
theorem test_ecbe_two_blocks : (result (exec .ecbe { ready with inBuf := [0x61#8, 0x62#8, 0x63#8, 0x64#8, 0x65#8, 0x66#8, 0x67#8, 0x68#8, 0x69#8] })).map (·.outBuf) =
    some [0x3D#8, 0x4A#8, 0x9D#8, 0xCC#8, 0x8C#8, 0xDD#8, 0x0F#8, 0x29#8, 0x88#8, 0x88#8, 0xEC#8, 0x08#8, 0x09#8, 0x89#8, 0xBC#8, 0xA0#8] := by
  decide +kernel

/-- V10: the decrypted block is the marker and zeros, so `OUT` is empty with `ERR = 0`. -/
theorem test_ecbd_empty_result : (result (exec .ecbd { ready with outBuf := [1#8], inBuf := [0xAF#8, 0xAC#8, 0x61#8, 0xD0#8, 0xB7#8, 0x8F#8, 0x4B#8, 0x7B#8] })).map (fun t => (t.outBuf, t.err)) =
    some ([], 0#8) := by decide +kernel

/-- V9: seven bytes are `BadLength`, and `OUT` keeps its content. -/
theorem test_ecbd_partial_block : (result (exec .ecbd { ready with outBuf := [1#8], inBuf := List.replicate 7 0#8 })).map (fun t => (t.outBuf, t.err)) =
    some ([1#8], 6#8) := by decide +kernel

/-- V8, the CBCE row: the draw answers the IV of S4. -/
theorem test_cbce_given_draw : (result (cbcEncryptInput ivS4 { ready with inBuf := abc })).map (·.outBuf) =
    some [0xF8#8, 0xA4#8, 0x9E#8, 0x45#8, 0x40#8, 0xA5#8, 0x65#8, 0xC8#8, 0xFC#8, 0xFB#8, 0xA2#8, 0x81#8, 0x3F#8, 0xA7#8, 0x11#8, 0x72#8] := by
  decide +kernel

/-- V9: an empty `IN`, and no IV is looked for in buffer `IV`. -/
theorem test_cbce_empty : (result (exec .cbce ready)).map (fun t => (t.err, t.outBuf)) = some (2#8, []) := by decide +kernel

/-- V7: the output for the data of S4. -/
theorem test_cbcei_fixture : (result (exec .cbcei { ready with
      ivBuf := ivS4.toList,
      inBuf := [0x59#8, 0x61#8, 0x6D#8, 0x61#8, 0x74#8, 0x6F#8, 0x20#8, 0x26#8, 0x20#8, 0x4D#8, 0x75#8, 0x73#8, 0x61#8, 0x73#8, 0x68#8, 0x69#8] })).map (·.outBuf) =
    some [0xF8#8, 0xA4#8, 0x9E#8, 0x45#8, 0x40#8, 0xA5#8, 0x65#8, 0xC8#8, 0xE3#8, 0x78#8, 0x2E#8, 0x04#8, 0x30#8, 0x40#8, 0x45#8, 0x7A#8,
      0x5A#8, 0xBF#8, 0xE4#8, 0xC6#8, 0x9A#8, 0x53#8, 0x4F#8, 0xCE#8] := by decide +kernel

/-- V9: both lengths wrong, the IV is reported. -/
theorem test_cbcei_priority : (result (exec .cbcei ready)).map (·.err) = some 3#8 := by decide +kernel

/-- V8: two chained blocks, the padding stripped across the second. -/
theorem test_cbcd_two_blocks : (result (exec .cbcd { ready with inBuf := [0xF8#8, 0xA4#8, 0x9E#8, 0x45#8, 0x40#8, 0xA5#8, 0x65#8, 0xC8#8,
      0x1B#8, 0xE9#8, 0x6E#8, 0x33#8, 0x60#8, 0xB8#8, 0x55#8, 0x1C#8, 0x17#8, 0x1E#8, 0xA0#8, 0xEA#8, 0x9B#8, 0x9D#8, 0x2E#8, 0xED#8] })).map (·.outBuf) =
    some [0x61#8, 0x62#8, 0x63#8, 0x64#8, 0x65#8, 0x66#8, 0x67#8, 0x68#8, 0x69#8] := by decide +kernel

/-- V9: an IV and nothing else, and one byte more. -/
theorem test_cbcd_lengths : (result (exec .cbcd { ready with inBuf := List.replicate 8 0#8 })).map (·.err) = some 4#8 ∧
    (result (exec .cbcd { ready with inBuf := List.replicate 9 0#8 })).map (·.err) = some 6#8 := by decide +kernel

/-- V6: the last marker wins; an all-zero buffer has none (R153); a scan that reaches index 0. -/
theorem test_padding_index : paddingIndex [0x05#8, 0x80#8, 0x80#8, 0#8, 0#8, 0#8, 0#8, 0#8] = some 2 ∧
    paddingIndex (List.replicate 8 0#8) = none ∧ paddingIndex (0x80#8 :: List.replicate 7 0#8) = some 0 := by decide

/-- R12, corner value of the rotation. -/
theorem test_rotl32 : rotl32 0xFFE00000#32 11 = 0x000007FF#32 := by decide

/-! ### Witnesses: for each statement with hypotheses, a state and operands that meet them -/

theorem witness_CommandStreamsDecodeAndEncodeAgree :
    (∀ i ∈ [Instr.init, .cbcd], i.wellFormed = true) ∧ decodeAll [0x01#8, 0x08#8] = .ok [.init, .cbcd] := by decide

/-- Each clause: the last legal byte, and the first byte past the map. -/
theorem witness_StepRunsTheDecodedCommand : ∃ (s s' : State) (c c' : Byte) (i : Instr) (e : DecodeError),
    s.pending = [.writeCmd c] ∧ i.wellFormed = true ∧ decode c = .ok i ∧
    s'.pending = [.writeCmd c'] ∧ decode c' = .error e :=
  ⟨{ State.reset with pending := [.writeCmd 0x08#8] }, { State.reset with pending := [.writeCmd 0x09#8] }, 0x08#8, 0x09#8,
    .cbcd, .illegalCommand 0x09#8, rfl, rfl, rfl, rfl, rfl⟩

/-- Both clauses, at the bytes on either side of the map's ends. -/
theorem witness_IllegalCommandIsRaisedByEveryOtherByte :
    ¬ (1 ≤ (0x00#8).toNat ∧ (0x00#8).toNat ≤ 8) ∧ ¬ (1 ≤ (0x09#8).toNat ∧ (0x09#8).toNat ≤ 8) ∧
    (1 ≤ (0x01#8).toNat ∧ (0x01#8).toNat ≤ 8) ∧ (1 ≤ (0x08#8).toNat ∧ (0x08#8).toNat ≤ 8) := by decide

/-- Each clause: an action, one that cannot be presented, and no action. -/
theorem witness_EveryStepTakesOneHostAction : ∃ (s s' : State) (a a' : HostAction),
    s.pending = [a] ∧ a.presentable s.params = true ∧
    s'.pending = [a'] ∧ a'.presentable s'.params = false ∧ State.reset.pending = [] :=
  ⟨{ State.reset with pending := [.reset] },
    { State.resetWith small with pending := [.writeIv (List.replicate 9 0#8)] }, .reset, .writeIv (List.replicate 9 0#8),
    rfl, rfl, rfl, by decide, rfl⟩

theorem witness_HostWritesReplaceWhatTheyName_full : ∃ s1 s2 s3 s4 s5 : State,
    s1.pending = [.writeKey keyBytes] ∧ keyBytes.length ≤ s1.params.keyCap ∧
    s2.pending = [.writeIv ivS4.toList] ∧ ivS4.toList.length ≤ s2.params.ivCap ∧
    s3.pending = [.writeIn (List.replicate 8 0#8)] ∧ s3.params.maxLen = some 8 ∧
    s4.pending = [.writeL 0xFFFFFFFF#32] ∧ s5.pending = [.writeR 0#32] :=
  ⟨{ State.resetWith small with pending := [.writeKey keyBytes] },
    { State.resetWith small with pending := [.writeIv ivS4.toList] },
    { State.resetWith small with pending := [.writeIn (List.replicate 8 0#8)] },
    { State.reset with pending := [.writeL 0xFFFFFFFF#32] }, { State.reset with pending := [.writeR 0#32] },
    rfl, by decide, rfl, by decide, rfl, rfl, rfl, rfl⟩

/-- One byte more than each capacity. -/
theorem witness_HostWritesReplaceWhatTheyName_over : ∃ s1 s2 s3 : State,
    s1.pending = [.writeKey (List.replicate 33 0#8)] ∧ s1.params.keyCap = 32 ∧
    s2.pending = [.writeIv (List.replicate 9 0#8)] ∧ s2.params.ivCap = 8 ∧
    s3.pending = [.writeIn (List.replicate 9 0#8)] ∧ s3.params.maxLen = some 8 :=
  ⟨{ State.resetWith small with pending := [.writeKey (List.replicate 33 0#8)] },
    { State.resetWith small with pending := [.writeIv (List.replicate 9 0#8)] },
    { State.resetWith small with pending := [.writeIn (List.replicate 9 0#8)] }, rfl, rfl, rfl, rfl, rfl, rfl⟩

theorem witness_HostWritesOfStatusAndErrAreIgnored : ∃ s s' : State,
    s.pending = [.writeStatus 0xFF#8] ∧ s'.pending = [.writeErr 0xFF#8] :=
  ⟨{ State.reset with pending := [.writeStatus 0xFF#8] }, { State.reset with pending := [.writeErr 0xFF#8] }, rfl, rfl⟩

theorem witness_HostReadsAnswerAndChangeNothing : ∃ s : State, s.pending = [.read .out] :=
  ⟨{ State.reset with pending := [.read .out] }, rfl⟩

theorem witness_ResetLeavesTheSpecifiedState : ∃ (s : State) (rest : List HostAction) (t : State),
    s.pending = .reset :: rest ∧ step s = .next t :=
  ⟨{ ready with pending := [.reset] }, [], resetCore (({ ready with pending := [.reset] } : State).setPending []), rfl,
    (step_presentable rfl rfl).trans rfl⟩

theorem witness_NothingOfTheCoreSurvivesReset : ∃ s s' : State,
    s.pending = [.reset] ∧ s'.pending = [.reset] ∧ s.params = s'.params ∧ s.draws = s'.draws ∧ s.answer = s'.answer ∧ s.ctx ≠ s'.ctx :=
  ⟨{ ready with pending := [.reset] }, { State.reset with pending := [.reset] }, rfl, rfl, rfl, rfl, rfl,
    by decide⟩

theorem sbox_allPermutations : sbox.allPermutations := by
  unfold Config.SBox.allPermutations Config.Box.isPermutation
  decide +kernel

/-- The default parameters are allowed ones (S1, S2). -/
theorem defaultParams_admissible : Admissible defaultParams where
  boxes_permute := sbox_allPermutations
  boxes_reproduce := by
    unfold ReproducesBlockVectors
    decide +kernel
  key_cap := by decide
  iv_cap := by decide
  max_len := by simp [defaultParams]

/-- So are the least capacities. -/
theorem small_admissible : Admissible small where
  boxes_permute := defaultParams_admissible.boxes_permute
  boxes_reproduce := defaultParams_admissible.boxes_reproduce
  key_cap := by decide
  iv_cap := by decide
  max_len := by simp [small]

theorem witness_BootSequenceMakesTheCoreReady : ∃ (s : State) (key : List Byte) (rest : List HostAction),
    Admissible s.params ∧ key.length = 32 ∧ s.pending = .reset :: .writeKey key :: .writeCmd 1#8 :: rest :=
  ⟨{ State.resetWith small with pending := [.reset, .writeKey keyBytes, .writeCmd 1#8] }, keyBytes, [], small_admissible,
    by decide, rfl⟩

/-- Each clause: a text of 32 bytes, one of 31, one that cannot be presented, RELEASE, and an action that writes no CMD. -/
theorem witness_PseudoInstructionsExpand : ∃ s s' s'' r : State,
    s.pending = programActions [.initt keyBytes] ∧ keyBytes.length = 32 ∧ s.params.keyCap = 32 ∧
    s'.pending = programActions [.initt (keyBytes.drop 1)] ∧ (keyBytes.drop 1).length ≠ 32 ∧ s'.params.keyCap = 32 ∧
    s''.pending = programActions [.initt (0#8 :: keyBytes)] ∧ s''.params.keyCap < (0#8 :: keyBytes).length ∧
    r.pending = programActions [.release] ∧ ∀ c, HostAction.reset ≠ .writeCmd c :=
  ⟨{ State.resetWith small with pending := programActions [.initt keyBytes] },
    { State.resetWith small with pending := programActions [.initt (keyBytes.drop 1)] },
    { State.resetWith small with pending := programActions [.initt (0#8 :: keyBytes)] },
    { State.reset with pending := programActions [.release] }, rfl, by decide, rfl, rfl, by decide, rfl, rfl, by decide, rfl,
    fun _ => by simp⟩

theorem witness_TablesOfPermutationsArePermutations : ∃ sb : Config.SBox, sb.allPermutations := ⟨sbox, sbox_allPermutations⟩

theorem witness_RoundFunctionIsABijection : ∃ sb : Config.SBox, sb.allPermutations := ⟨sbox, sbox_allPermutations⟩

/-- Both clauses, each on a READY core: it is rekeyed, or keeps its context. -/
theorem witness_InitBuildsTheContext : ∃ s s' : State, s.ctx = true ∧ s.keyBuf.length = 32 ∧ s'.ctx = true ∧
    s'.keyBuf.length ≠ 32 :=
  ⟨{ ready with keyBuf := keyBytes }, ready, rfl, by decide, rfl, by decide⟩

/-- Each clause: 31, 33 and 32 bytes. -/
theorem witness_InitFailsExactlyOnAWrongKeySize : ∃ s s' s'' : State,
    s.keyBuf.length = 31 ∧ s'.keyBuf.length = 33 ∧ s''.keyBuf.length = 32 :=
  ⟨{ State.reset with keyBuf := List.replicate 31 0#8 }, { State.reset with keyBuf := List.replicate 33 0#8 },
    { State.reset with keyBuf := List.replicate 32 0#8 }, by decide, by decide, by decide⟩

theorem witness_OnlyResetAndInitChangeTheContext : ∃ s t : State, step s = .next t ∧ t.ctx ≠ s.ctx :=
  ⟨{ ready with pending := [.reset] }, resetCore (({ ready with pending := [.reset] } : State).setPending []),
    (step_presentable rfl rfl).trans rfl, by decide⟩

theorem witness_RoundFunctionReadsTablesAndRotates : (0 < 32) ∧ (20 < 32) ∧ (21 < 32) ∧ (31 < 32) := by decide

/-- The rounds where the clauses meet. -/
theorem witness_SubkeyOrders : (1 ≤ 1 ∧ 8 ≤ 32) ∧ (encSeq 24, encSeq 25, decSeq 8, decSeq 9) = (7, 7, 7, 7) := by decide

theorem witness_EncbEncryptsInPlace : ready.ctx = true ∧ State.reset.ctx = false := ⟨rfl, rfl⟩

theorem witness_DecbDecryptsInPlaceAndUndoesEncb : ready.ctx = true ∧ State.reset.ctx = false := ⟨rfl, rfl⟩

/-- The second clause at an empty prefix; the third at an all-zero sequence. -/
theorem witness_StripCutsAtTheLastMarker :
    paddingIndex [0x80#8] = some 0 ∧ ∀ (pre : List Byte) (n : Nat), List.replicate 8 0#8 ≠ pre ++ 0x80#8 :: List.replicate n 0#8 := by
  refine ⟨by decide, fun pre n h => ?_⟩
  have : 0x80#8 ∈ List.replicate 8 0#8 := by rw [h]; simp
  simp at this

/-- An aligned sequence outside the exception, one inside it, and one that is not aligned. -/
theorem witness_StripUndoesAlignOutsideTheException :
    (∀ (pre : List Byte) (n : Nat), List.replicate 8 0#8 ≠ pre ++ 0x80#8 :: List.replicate n 0#8) ∧
    ([1#8, 2#8, 3#8, 4#8, 5#8, 6#8, 7#8, 0x80#8].length % 8 = 0) ∧ abc.length % 8 ≠ 0 :=
  ⟨witness_StripCutsAtTheLastMarker.2, by decide, by decide⟩

/-- Each clause: one byte, no context, an empty `IN`. -/
theorem witness_EcbeEncryptsEveryPaddedBlock : ∃ s : State, s.ctx = true ∧ s.inBuf ≠ [] ∧
    State.reset.ctx = false ∧ ready.ctx = true ∧ ready.inBuf = [] :=
  ⟨{ ready with inBuf := [0x61#8] }, rfl, by decide, rfl, rfl, rfl⟩

/-- Each clause: eight bytes, no context, an empty `IN`, seven bytes. -/
theorem witness_EcbdDecryptsEveryBlockAndStrips : ∃ s s' : State, s.ctx = true ∧ s.inBuf ≠ [] ∧ s.inBuf.length % 8 = 0 ∧
    State.reset.ctx = false ∧ ready.ctx = true ∧ ready.inBuf = [] ∧
    s'.ctx = true ∧ s'.inBuf ≠ [] ∧ s'.inBuf.length % 8 ≠ 0 :=
  ⟨{ ready with inBuf := List.replicate 8 0#8 }, { ready with inBuf := List.replicate 7 0#8 }, rfl, by decide, by decide,
    rfl, rfl, rfl, rfl, by decide, by decide⟩

/-- A next state and two facts about it, from one evaluation. -/
theorem exists_next_of_result {o : Outcome State} {e : Byte} {n : Nat}
    (h : (result o).map (fun t => (t.err, t.outBuf.length)) = some (e, n)) :
    ∃ t, o = .next t ∧ t.err = e ∧ t.outBuf.length = n := by
  cases o with
  | next t =>
    simp only [result, Option.map_some, Option.some.injEq, Prod.mk.injEq] at h
    exact ⟨t, rfl, h⟩
  | fault r => cases h
  | refused r => cases h

theorem ecbe_zeros : ∃ t, exec .ecbe { ready with inBuf := List.replicate 16 0#8 } = .next t ∧ t.err = 0#8 ∧
    t.outBuf.length = 16 := exists_next_of_result (by decide +kernel)

/-- Sixteen zero bytes: block 0 and block 1 of one message (P4). -/
theorem witness_EqualBlocksGiveEqualEcbBlocks : ∃ (s s' t t' : State) (a b : Nat), s.k = s'.k ∧ s.tables = s'.tables ∧
    exec .ecbe s = .next t ∧ t.err = 0#8 ∧ exec .ecbe s' = .next t' ∧ t'.err = 0#8 ∧
    8 * a < t.outBuf.length ∧ 8 * b < t'.outBuf.length ∧ a ≠ b ∧
    memRead (alignToBlock s.inBuf) (8 * a) 8 = memRead (alignToBlock s'.inBuf) (8 * b) 8 := by
  obtain ⟨t, ht, he, hl⟩ := ecbe_zeros
  exact ⟨_, _, t, t, 0, 1, rfl, rfl, ht, he, ht, he, by omega, by omega, by decide, by decide +kernel⟩

/-- Two blocks written last first. -/
theorem witness_EcbBlocksMayBeWrittenInAnyOrder : ∃ (s t : State) (order : List Nat), s.ctx = true ∧ s.inBuf ≠ [] ∧
    exec .ecbe s = .next t ∧ order.Perm (List.range ((alignToBlock s.inBuf).length / 8)) := by
  have h : (result (exec .ecbe { ready with inBuf := List.replicate 9 0#8 })).isSome = true := by decide +kernel
  exact ⟨{ ready with inBuf := List.replicate 9 0#8 }, _, [1, 0], rfl, by decide, eq_next_of_result h, by decide⟩

/-- Both clauses: nine bytes, and an aligned message that ends in the marker. -/
theorem witness_EcbRoundTrip : ∃ s s' : State, s.ctx = true ∧ s.inBuf ≠ [] ∧ s.inBuf.length % 8 ≠ 0 ∧
    s'.ctx = true ∧ s'.inBuf ≠ [] ∧ s'.inBuf.length % 8 = 0 ∧ s'.inBuf = [] ++ 0x80#8 :: List.replicate 7 0#8 :=
  ⟨{ ready with inBuf := List.replicate 9 1#8 }, { ready with inBuf := 0x80#8 :: List.replicate 7 0#8 },
    rfl, by decide, by decide, rfl, by decide, by decide, rfl⟩

/-- Each clause: an IV and a text; no context; an empty IV; an IV and no text. -/
theorem witness_CbceiChainsFromTheIvBuffer : ∃ s s' : State, s.ctx = true ∧ s.ivBuf.length = 8 ∧ s.inBuf ≠ [] ∧
    State.reset.ctx = false ∧ ready.ctx = true ∧ ready.ivBuf.length ≠ 8 ∧
    s'.ctx = true ∧ s'.ivBuf.length = 8 ∧ s'.inBuf = [] :=
  ⟨{ ready with ivBuf := ivS4.toList, inBuf := abc }, { ready with ivBuf := ivS4.toList }, rfl, by decide, by decide, rfl,
    rfl, by decide, rfl, by decide, rfl⟩

theorem witness_CbceChainsFromTheDrawnIv : ∃ s : State, s.ctx = true ∧ s.inBuf ≠ [] :=
  ⟨{ ready with inBuf := abc }, rfl, by decide⟩

theorem witness_CbceIsCbceiWithTheDrawnIv : ready.ctx = true := rfl

/-- Each clause: the shortest legal input, no context, an IV alone, one byte more. -/
theorem witness_CbcdUnchainsAndStrips : ∃ s s' s'' : State,
    s.ctx = true ∧ 8 < s.inBuf.length ∧ (s.inBuf.length - 8) % 8 = 0 ∧ State.reset.ctx = false ∧
    s'.ctx = true ∧ s'.inBuf.length = 8 ∧ s''.ctx = true ∧ 8 < s''.inBuf.length ∧ (s''.inBuf.length - 8) % 8 ≠ 0 :=
  ⟨{ ready with inBuf := List.replicate 16 0#8 }, { ready with inBuf := List.replicate 8 0#8 },
    { ready with inBuf := List.replicate 9 0#8 }, rfl, by decide, by decide, rfl, rfl, by decide, rfl, by decide, by decide⟩

/-- Either command, and either clause. -/
theorem witness_CbcRoundTrip : ∃ s s' : State, s.ctx = true ∧ s.ivBuf.length = 8 ∧ s.inBuf ≠ [] ∧ s.inBuf.length % 8 ≠ 0 ∧
    s'.ctx = true ∧ s'.inBuf ≠ [] ∧ s'.inBuf.length % 8 = 0 ∧ s'.inBuf = [] ++ 0x80#8 :: List.replicate 7 0#8 :=
  ⟨{ ready with ivBuf := ivS4.toList, inBuf := abc }, { ready with inBuf := 0x80#8 :: List.replicate 7 0#8 },
    rfl, by decide, by decide, by decide, rfl, by decide, by decide, rfl⟩

theorem witness_ZeroIvFirstBlockIsTheEcbBlock : ∃ s t u : State, s.ctx = true ∧ s.inBuf ≠ [] ∧
    s.ivBuf = List.replicate 8 0#8 ∧ exec .cbcei s = .next t ∧ exec .ecbe s = .next u := by
  have ht : (result (exec .cbcei { ready with ivBuf := List.replicate 8 0#8, inBuf := abc })).isSome = true := by
    decide +kernel
  have hu : (result (exec .ecbe { ready with ivBuf := List.replicate 8 0#8, inBuf := abc })).isSome = true := by
    decide +kernel
  exact ⟨{ ready with ivBuf := List.replicate 8 0#8, inBuf := abc }, _, _, rfl, by decide, rfl, eq_next_of_result ht,
    eq_next_of_result hu⟩

theorem witness_CommandsBeforeInitRaiseNoContext : Instr.cbcd ≠ .init ∧ State.reset.ctx = false := by decide

theorem witness_UnconfiguredCoreReadsNoContext : State.reset.ctx = false := rfl

/-- Every clause: a READY core with `IN` empty and an 8-byte `IV`; a CBCD that answers a next state. -/
theorem witness_EmptyInputIsRaisedOnAnEmptyIn : ∃ s t : State, s.ctx = true ∧ s.inBuf = [] ∧ s.ivBuf.length = 8 ∧
    exec .cbcd s = .next t := by
  have h : (result (exec .cbcd { ready with ivBuf := ivS4.toList })).isSome = true := by decide +kernel
  exact ⟨{ ready with ivBuf := ivS4.toList }, _, rfl, rfl, by decide, eq_next_of_result h⟩

/-- Seven and nine bytes; another command. -/
theorem witness_InvalidIvSizeIsRaisedByCbceiAlone : ∃ s s' : State, s.ctx = true ∧ s.ivBuf.length = 7 ∧
    s'.ctx = true ∧ s'.ivBuf.length = 9 ∧ Instr.init ≠ .cbcei ∧ Instr.cbcd ≠ .cbcei :=
  ⟨{ ready with ivBuf := List.replicate 7 0#8 }, { ready with ivBuf := List.replicate 9 0#8 }, rfl, by decide, rfl,
    by decide, by decide, by decide⟩

/-- The empty buffer and an IV alone. -/
theorem witness_CiphertextTooShortIsRaisedUpToEightBytes : ∃ s : State, s.ctx = true ∧ s.inBuf.length = 8 ∧
    ready.ctx = true ∧ ready.inBuf.length ≤ 8 :=
  ⟨{ ready with inBuf := List.replicate 8 0#8 }, rfl, by decide, rfl, by decide⟩

/-- Each clause at its shortest input. -/
theorem witness_BadLengthIsRaisedOnPartialBlocks : ∃ s s' : State, s.ctx = true ∧ s.inBuf.length ≠ 0 ∧ s.inBuf.length % 8 ≠ 0 ∧
    s'.ctx = true ∧ 8 < s'.inBuf.length ∧ (s'.inBuf.length - 8) % 8 ≠ 0 :=
  ⟨{ ready with inBuf := [0#8] }, { ready with inBuf := List.replicate 9 0#8 }, rfl, by decide, by decide, rfl, by decide,
    by decide⟩

theorem witness_ErrorsChangeNothingButErr : ∃ t : State, issueCommand 0x00#8 ready = .next t ∧ t.err ≠ 0#8 :=
  ⟨ready.setErr 7#8, rfl, by decide⟩

/-- The bytes on either side of the map's ends. -/
theorem witness_ErrorPriority : ¬ (1 ≤ (0x00#8).toNat ∧ (0x00#8).toNat ≤ 8) ∧
    ¬ (1 ≤ (0x09#8).toNat ∧ (0x09#8).toNat ≤ 8) ∧ decode 0x01#8 = .ok .init ∧ decode 0x08#8 = .ok .cbcd := by decide

/-- Two READY cores with different one-byte inputs, and a CBCD that fails on each. -/
theorem witness_ErrorsDependOnLengthsAndRepeat : ∃ s s' t t' : State, s.ctx = s'.ctx ∧ s.inBuf.length = s'.inBuf.length ∧
    s.keyBuf.length = s'.keyBuf.length ∧ s.ivBuf.length = s'.ivBuf.length ∧ s ≠ s' ∧
    exec .cbcd s = .next t ∧ exec .cbcd s' = .next t' ∧ t.err ≠ 0#8 := by
  obtain ⟨t, ht, he, -⟩ := exists_next_of_result (o := exec .cbcd { ready with inBuf := [1#8] }) (e := 4#8) (n := 0)
    (by decide +kernel)
  obtain ⟨t', ht', -⟩ := exists_next_of_result (o := exec .cbcd { ready with inBuf := [2#8] }) (e := 4#8) (n := 0)
    (by decide +kernel)
  exact ⟨{ ready with inBuf := [1#8] }, { ready with inBuf := [2#8] }, t, t', rfl, rfl, rfl, rfl, fun e => absurd (congrArg State.inBuf e) (by decide), ht, ht', by simp [he]⟩

/-- Both an INIT that succeeds and one that fails. -/
theorem witness_InitFrame : ∃ s t s' t' : State, exec .init s = .next t ∧ s.keyBuf.length = 32 ∧
    exec .init s' = .next t' ∧ s'.keyBuf.length ≠ 32 := by
  have h : (result (exec .init { ready with keyBuf := keyBytes })).isSome = true := by decide +kernel
  have h' : (result (exec .init ready)).isSome = true := by decide +kernel
  exact ⟨{ ready with keyBuf := keyBytes }, _, ready, _, eq_next_of_result h, by decide, eq_next_of_result h', by decide⟩

theorem witness_BlockCommandFrame : ∃ t t' : State, exec .decb ready = .next t ∧ exec .encb State.reset = .next t' ∧
    State.reset.ctx = false := by
  have h : (result (exec .decb ready)).isSome = true := by decide +kernel
  exact ⟨_, State.reset.setErr 5#8, eq_next_of_result h, rfl, rfl⟩

theorem witness_ModeCommandFrame : ∃ s t t' : State, exec .ecbe s = .next t ∧ exec .cbcd s = .next t' ∧ t'.err ≠ 0#8 := by
  obtain ⟨t, ht, -⟩ := exists_next_of_result (o := exec .ecbe { ready with inBuf := abc }) (e := 0#8) (n := 8)
    (by decide +kernel)
  obtain ⟨t', ht', he, -⟩ := exists_next_of_result (o := exec .cbcd { ready with inBuf := abc }) (e := 4#8) (n := 0)
    (by decide +kernel)
  exact ⟨_, t, t', ht, ht', by simp [he]⟩

theorem witness_BuffersMatterOnlyToTheirReaders : Instr.cbcd ≠ .init ∧ Instr.cbcd ≠ .cbcei ∧ Instr.decb = .decb := by decide

theorem witness_DataRegistersMatterOnlyToBlockCommands : Instr.cbce ≠ .encb ∧ Instr.cbce ≠ .decb := by decide

/-- A READY core with an action to come meets the promises, and its step answers a next state. -/
theorem witness_EveryStepKeepsTheStatePromises : ∃ s t : State, s.Inv ∧ step s = .next t ∧ s.ctx = true :=
  ⟨{ ready with pending := [.writeL 1#32] }, (({ ready with pending := [.writeL 1#32] } : State).setPending []).setL 1#32,
    { params_admissible := defaultParams_admissible
      err_legal := by decide
      key_fits := by decide
      iv_fits := by decide
      in_fits := by decide
      out_fits := by decide
      tables_built := fun _ => rfl
      no_key_material := by simp [ready] },
    (step_presentable rfl rfl).trans rfl, rfl⟩

theorem witness_ResetMeetsTheStatePromises : Admissible small := small_admissible

theorem witness_ParametersAreConstantAndReadByInitAlone : Instr.cbcd ≠ .init ∧ ∃ s t : State, step s = .next t :=
  ⟨by decide, State.reset, State.reset, step_waiting rfl⟩

theorem witness_AllowedBoxesGiveTheKnownVectors : ∃ s : State, s.params.sbox.allPermutations ∧
    ReproducesBlockVectors s.params.sbox ∧ s.keyBuf =
    [0, 0, 0, 0, 1, 0, 0, 0, 2, 0, 0, 0, 3, 0, 0, 0, 4, 0, 0, 0, 5, 0, 0, 0, 6, 0, 0, 0, 7, 0, 0, 0] :=
  ⟨{ State.resetWith small with
      keyBuf := [0, 0, 0, 0, 1, 0, 0, 0, 2, 0, 0, 0, 3, 0, 0, 0, 4, 0, 0, 0, 5, 0, 0, 0, 6, 0, 0, 0, 7, 0, 0, 0] },
    small_admissible.boxes_permute, small_admissible.boxes_reproduce, rfl⟩

end Sys2Proof.Tests
end

/-! ### Bytes and words as numbers, blocks and their two halves (R13, R56) -/

namespace Sys2Proof.Machine

/-- Concatenation in numbers: the left part is shifted past the width of the right one. -/
theorem toNat_append_eq_add {m n : Nat} (x : BitVec m) (y : BitVec n) : (x ++ y).toNat = 2 ^ n * x.toNat + y.toNat := by
  rw [BitVec.toNat_append, ← Nat.shiftLeft_add_eq_or_of_lt y.isLt, Nat.shiftLeft_eq, Nat.mul_comm]

/-- R13 in numbers; the number of each half of a block (R56) and of each subkey (R55) rests on it. -/
theorem toNat_le32 (s0 s1 s2 s3 : Byte) :
    (le32 s0 s1 s2 s3).toNat = s0.toNat + 2 ^ 8 * s1.toNat + 2 ^ 16 * s2.toNat + 2 ^ 24 * s3.toNat := by
  simp only [le32, wordOfBytes, toNat_append_eq_add]
  omega

/-- Byte by byte: each byte of the output is the one byte of its half that `le32` put there (`byte0_wordOfBytes` to
`byte3_wordOfBytes`). -/
@[simp] theorem blockOut_blockIn (s : Block) : blockOut (blockIn s) = s := by
  ext i hi
  interval_cases i <;> simp [blockOut, blockIn, le32]

/-- Half by half: `le32` of a word's four bytes is the word (`wordOfBytes_bytes`). -/
@[simp] theorem blockIn_blockOut (p : Word × Word) : blockIn (blockOut p) = p :=
  Prod.ext (wordOfBytes_bytes p.1) (wordOfBytes_bytes p.2)

/-- Settles O16: each half of a block is a `le32` in numbers, and a word and its four bytes determine each other. -/
theorem blocksAreLittleEndianWordPairs : Obligations.BlocksAreLittleEndianWordPairs :=
  ⟨fun _ => ⟨toNat_le32 .., toNat_le32 ..⟩, blockOut_blockIn, blockIn_blockOut⟩

end Sys2Proof.Machine

/-! ### The state after reset (R37) -/

namespace Sys2Proof.Machine

/-- The host may assert reset whatever the parameters (R20), so the step is never refused. -/
theorem step_reset {s : State} {rest : List HostAction} (h : s.pending = .reset :: rest) :
    step s = .next (resetCore (s.setPending rest)) :=
  step_presentable h rfl

/-- The initial state of a core is a state right after reset too. -/
theorem resetCore_resetWith (p : Config.Params) : resetCore (State.resetWith p) = State.resetWith p := rfl

@[simp] theorem resetCore_status (s : State) : (resetCore s).status = 0#8 := by
  simp [State.status_eq]

theorem resetCore_getElem_k (s : State) (i : Fin 8) : (resetCore s).k[i] = 0#32 := by
  simp

/-- Settles O10: each of the three ways to a state after reset is `resetCore` of some state, whose fields are known. -/
theorem resetLeavesTheSpecifiedState : Obligations.ResetLeavesTheSpecifiedState := by
  intro t h
  obtain ⟨u, rfl⟩ : ∃ u, t = resetCore u := by
    obtain rfl | ⟨p, rfl⟩ | ⟨s, rest, hp, hs⟩ := h
    · exact ⟨_, (resetCore_resetWith defaultParams).symm⟩
    · exact ⟨_, (resetCore_resetWith p).symm⟩
    · rw [step_reset hp, Host.Outcome.next.injEq] at hs
      exact ⟨_, hs.symm⟩
  exact ⟨resetCore_ctx u, resetCore_err u, resetCore_status u, resetCore_getElem_k u, resetCore_l u, resetCore_r u,
    resetCore_keyBuf u, resetCore_ivBuf u, resetCore_inBuf u, resetCore_outBuf u⟩

end Sys2Proof.Machine

/-! ### The opcode map and the bytes outside it (R81, R82, R212) -/

namespace Sys2Proof

/-- The bytes of R81's rows are those from `0x01` to `0x08`. -/
theorem encode_toNat_bounds : ∀ i : Instr, 1 ≤ (encode i).toNat ∧ (encode i).toNat ≤ 8
  | .init => Laws.Opcode.init.2
  | .encb => Laws.Opcode.encb.2
  | .decb => Laws.Opcode.decb.2
  | .ecbe => Laws.Opcode.ecbe.2
  | .ecbd => Laws.Opcode.ecbd.2
  | .cbce => Laws.Opcode.cbce.2
  | .cbcei => Laws.Opcode.cbcei.2
  | .cbcd => Laws.Opcode.cbcd.2

/-- Every byte from `0x01` to `0x08` is the byte of a row of R81. -/
theorem exists_eq_encode {c : Byte} (h : 1 ≤ c.toNat ∧ c.toNat ≤ 8) : ∃ i, c = encode i := by
  obtain ⟨h1, h8⟩ := h
  interval_cases hc : c.toNat
  · exact ⟨.init, BitVec.eq_of_toNat_eq hc⟩
  · exact ⟨.encb, BitVec.eq_of_toNat_eq hc⟩
  · exact ⟨.decb, BitVec.eq_of_toNat_eq hc⟩
  · exact ⟨.ecbe, BitVec.eq_of_toNat_eq hc⟩
  · exact ⟨.ecbd, BitVec.eq_of_toNat_eq hc⟩
  · exact ⟨.cbce, BitVec.eq_of_toNat_eq hc⟩
  · exact ⟨.cbcei, BitVec.eq_of_toNat_eq hc⟩
  · exact ⟨.cbcd, BitVec.eq_of_toNat_eq hc⟩

@[simp] theorem decode_encode (i : Instr) : decode (encode i) = .ok i := by
  cases i <;> rfl

/-- R82: a byte outside the map decodes to no command. -/
theorem decode_outside_map {c : Byte} (h : ¬ (1 ≤ c.toNat ∧ c.toNat ≤ 8)) :
    decode c = .error (.illegalCommand c) := by
  obtain ⟨i, -, rfl⟩ | ⟨hc, -⟩ := Machine.decode_cases c
  · exact absurd (encode_toNat_bounds i) h
  · exact hc

/-- Settles O1: each row of the map is the `encode` of its command, and the two bytes beside the map lie outside it. -/
theorem writtenOutCommandBytesDecode : Obligations.WrittenOutCommandBytesDecode :=
  ⟨decode_encode .init, decode_encode .encb, decode_encode .decb, decode_encode .ecbe, decode_encode .ecbd,
    decode_encode .cbce, decode_encode .cbcei, decode_encode .cbcd,
    decode_outside_map (by decide), decode_outside_map (by decide)⟩

end Sys2Proof

namespace Sys2Proof.Machine

/-- A command always answers a next state, and no test of any command raises `IllegalCommand` (R212). -/
theorem exec_next_err_ne_illegalCommand (i : Instr) (s : State) : ∃ t, exec i s = .next t ∧ t.err ≠ 7#8 := by
  cases i with
  | init => obtain ⟨-, h⟩ | ⟨-, _, -, h⟩ := execInit_spec s <;> exact ⟨_, h, by simp⟩
  | encb => obtain ⟨-, h⟩ | ⟨-, _, -, h⟩ := execEncb_spec s <;> exact ⟨_, h, by simp⟩
  | decb => obtain ⟨-, h⟩ | ⟨-, _, -, h⟩ := execDecb_spec s <;> exact ⟨_, h, by simp⟩
  | ecbe => obtain ⟨-, h⟩ | ⟨-, -, h⟩ | ⟨-, -, _, -, h⟩ := execEcbe_spec s <;> exact ⟨_, h, by simp⟩
  | ecbd =>
    obtain ⟨-, h⟩ | ⟨-, -, h⟩ | ⟨-, -, -, h⟩ | ⟨-, -, -, _, -, h⟩ := execEcbd_spec s <;> exact ⟨_, h, by simp⟩
  | cbce => obtain ⟨-, h⟩ | ⟨-, -, h⟩ | ⟨-, -, _, -, h⟩ := execCbce_spec s <;> exact ⟨_, h, by simp⟩
  | cbcei =>
    obtain ⟨-, h⟩ | ⟨-, -, h⟩ | ⟨-, -, -, h⟩ | ⟨-, -, -, _, _, -, -, h⟩ := execCbcei_spec s <;> exact ⟨_, h, by simp⟩
  | cbcd =>
    obtain ⟨-, h⟩ | ⟨-, -, h⟩ | ⟨-, -, -, h⟩ | ⟨-, -, -, _, _, -, h⟩ := execCbcd_spec s <;> exact ⟨_, h, by simp⟩

/-- Settles O4: a byte outside the map decodes to no command, one of the map is the byte of a command, and a command never
ends in `IllegalCommand`. -/
theorem illegalCommandIsRaisedByEveryOtherByte : Obligations.IllegalCommandIsRaisedByEveryOtherByte := by
  refine fun c s => ⟨fun h => issueCommand_error (decode_outside_map h) s, fun h => ?_⟩
  obtain ⟨i, rfl⟩ := exists_eq_encode h
  rw [issueCommand_ok (decode_encode i)]
  exact exec_next_err_ne_illegalCommand i s

end Sys2Proof.Machine

/-! ### The Table Builder in numbers (R110) -/

namespace Sys2Proof.Machine

/-- `Tn[j]` of a built table is the builder's result for `j` (R110). -/
@[simp] theorem tableOf_get (boxHigh boxLow : Config.Box) (j : Byte) :
    (tableOf boxHigh boxLow).get j = tableEntry boxHigh boxLow j := by
  simp [Table.get, tableOf]

/-- R10 of a byte given by its two nibbles: the builder looks up exactly these. -/
theorem tableEntry_append (boxHigh boxLow : Config.Box) (h l : Nibble) :
    tableEntry boxHigh boxLow (h ++ l) = boxEntry boxHigh h ++ boxEntry boxLow l := by
  rw [tableEntry, BitVec.extractLsb'_append_eq_left, BitVec.extractLsb'_append_eq_right]

/-- Bits 7:4 weigh 16, so an entry is the high box's value 16 times and the low box's once. -/
theorem toNat_tableOf_get_append (boxHigh boxLow : Config.Box) (h l : Nibble) :
    ((tableOf boxHigh boxLow).get (h ++ l)).toNat = 16 * (boxHigh[h.toNat]).toNat + (boxLow[l.toNat]).toNat := by
  rw [tableOf_get, tableEntry_append, toNat_append_eq_add]
  rfl

/-- Settles O14: each of the four tables is the builder's on its own box pair. -/
theorem tableEntriesComeFromTheBoxPairs : Obligations.TableEntriesComeFromTheBoxPairs :=
  fun _ h l => ⟨toNat_tableOf_get_append _ _ h l, toNat_tableOf_get_append _ _ h l,
    toNat_tableOf_get_append _ _ h l, toNat_tableOf_get_append _ _ h l⟩

end Sys2Proof.Machine

/-! ### The Key Scheduler and INIT (R111, R113, R114) -/

namespace Sys2Proof.Machine

/-- `K[i]` of the key schedule is the subkey of number `i` (R111). -/
theorem keySchedule_getElem (v : Vector Byte 32) (i : Fin 8) : (keySchedule v)[i] = subkey v i := by
  fin_cases i <;> rfl

/-- R55 in numbers: subkey `i` is little-endian from byte `4*i` of the key. -/
theorem toNat_subkey (v : Vector Byte 32) (i : Fin 8) :
    (subkey v i).toNat = (v[4 * i.val]).toNat + 2 ^ 8 * (v[4 * i.val + 1]).toNat +
      2 ^ 16 * (v[4 * i.val + 2]).toNat + 2 ^ 24 * (v[4 * i.val + 3]).toNat :=
  toNat_le32 ..

/-- Settles O17: the two cases of `execInit_spec`; in the successful one the key that was read is the content of KEY, and
its subkeys in numbers are `toNat_subkey`. -/
theorem initBuildsTheContext : Obligations.InitBuildsTheContext := by
  refine ⟨fun s len_eq => ?_, fun s len_ne => ?_⟩
  · obtain ⟨len_ne, -⟩ | ⟨-, v, hv, hexec⟩ := execInit_spec s
    · exact absurd len_eq len_ne
    · refine ⟨_, hexec, rfl, fun i => ?_⟩
      rw [State.setErr_k, State.setContext_k, keySchedule_getElem, toNat_subkey]
      simp only [← hv, Vector.getElem_toList]
  · obtain ⟨-, hexec⟩ | ⟨len_eq, -⟩ := execInit_spec s
    · exact hexec
    · exact absurd len_eq len_ne

end Sys2Proof.Machine

/-! ### Encrypt and Decrypt, ENCB and DECB (R132 to R137) -/

namespace Sys2Proof.Machine

/-- R132: DECSEQ is ENCSEQ read backwards. -/
theorem decSeq_eq_encSeq_reversed {i : Nat} (h1 : 1 ≤ i) (h32 : i ≤ 32) : decSeq i = encSeq (33 - i) := by
  interval_cases i <;> rfl

theorem encSeq_eq_decSeq_reversed {i : Nat} (h1 : 1 ≤ i) (h32 : i ≤ 32) : encSeq i = decSeq (33 - i) := by
  rw [decSeq_eq_encSeq_reversed (by omega) (by omega), show 33 - (33 - i) = i by omega]

/-- A pass in one subkey order undoes a pass in the reversed order on exchanged halves: its first round meets the last
round of the other pass, which has the same subkey and the other parity, and the two cancel. -/
theorem roundsFrom_swap_roundsFrom {seq seq' : Nat → Fin 8} (hseq : ∀ {i}, 1 ≤ i → i ≤ 32 → seq' i = seq (33 - i))
    (k : Subkeys) (t : Tables) (x : Word × Word) {a n : Nat} (ha : 1 ≤ a) (hn : a + n = 33) :
    roundsFrom k t seq' a n (roundsFrom k t seq 1 n x).swap = x.swap := by
  induction n generalizing a with
  | zero => rfl
  | succ n ih =>
    have parity : a % 2 ≠ (1 + n) % 2 := by omega
    have subkey_eq : k[seq' a] = k[seq (1 + n)] := by
      simp only [hseq ha (by omega), show 33 - a = 1 + n by omega]
    rw [roundsFrom_succ_last k t seq, roundsFrom_succ, subkey_eq, feistelRound_swap parity, feistelRound_self_inverse,
      ih (by omega) (by omega)]

/-- R135 (a): Decrypt undoes Encrypt. -/
@[simp] theorem decrypt_encrypt (k : Subkeys) (t : Tables) (p : Word × Word) : decrypt k t (encrypt k t p) = p := by
  rw [encrypt_eq_roundsFrom, decrypt_eq_roundsFrom,
    roundsFrom_swap_roundsFrom decSeq_eq_encSeq_reversed k t p le_rfl rfl, Prod.swap_swap]

/-- R135 (a): Encrypt undoes Decrypt. -/
@[simp] theorem encrypt_decrypt (k : Subkeys) (t : Tables) (p : Word × Word) : encrypt k t (decrypt k t p) = p := by
  rw [encrypt_eq_roundsFrom, decrypt_eq_roundsFrom,
    roundsFrom_swap_roundsFrom encSeq_eq_decSeq_reversed k t p le_rfl rfl, Prod.swap_swap]

/-- ENCB on a READY core (R136), with the pair it writes named. -/
theorem exec_encb_ready {s : State} {p : Word × Word} (hctx : s.ctx = true)
    (hp : encrypt s.k s.tables (s.l, s.r) = p) : exec .encb s = .next ((s.setLR p).setErr 0#8) := by
  obtain ⟨hno, -⟩ | ⟨-, q, hq, hexec⟩ := execEncb_spec s
  · simp [hctx] at hno
  · rw [← hp, ← hq]
    exact hexec

/-- DECB on a READY core (R137), with the pair it writes named. -/
theorem exec_decb_ready {s : State} {p : Word × Word} (hctx : s.ctx = true)
    (hp : decrypt s.k s.tables (s.l, s.r) = p) : exec .decb s = .next ((s.setLR p).setErr 0#8) := by
  obtain ⟨hno, -⟩ | ⟨-, q, hq, hexec⟩ := execDecb_spec s
  · simp [hctx] at hno
  · rw [← hp, ← hq]
    exact hexec

/-- R210 for ENCB. -/
theorem exec_encb_noContext {s : State} (hctx : s.ctx = false) : exec .encb s = .next (s.setErr 5#8) := by
  obtain ⟨-, hexec⟩ | ⟨hyes, -⟩ := execEncb_spec s
  · exact hexec
  · simp [hctx] at hyes

/-- R210 for DECB. -/
theorem exec_decb_noContext {s : State} (hctx : s.ctx = false) : exec .decb s = .next (s.setErr 5#8) := by
  obtain ⟨-, hexec⟩ | ⟨hyes, -⟩ := execDecb_spec s
  · exact hexec
  · simp [hctx] at hyes

/-- A second block command that writes the original pair back leaves only ERR changed. -/
theorem setLR_setErr_restore (s : State) (p : Word × Word) :
    (((s.setLR p).setErr 0#8).setLR (s.l, s.r)).setErr 0#8 = s.setErr 0#8 := rfl

/-- R137: DECB after ENCB restores `L` and `R`. -/
theorem exec_decb_after_encb {s : State} (hctx : s.ctx = true) :
    ∃ t, exec .encb s = .next t ∧ exec .decb t = .next (s.setErr 0#8) := by
  obtain ⟨p, hp⟩ : ∃ p, encrypt s.k s.tables (s.l, s.r) = p := ⟨_, rfl⟩
  have undo : decrypt s.k s.tables p = (s.l, s.r) := by rw [← hp, decrypt_encrypt]
  refine ⟨_, exec_encb_ready hctx hp, ?_⟩
  rw [exec_decb_ready (s := (s.setLR p).setErr 0#8) hctx undo, setLR_setErr_restore]

/-- R137: ENCB after DECB restores `L` and `R`. -/
theorem exec_encb_after_decb {s : State} (hctx : s.ctx = true) :
    ∃ t, exec .decb s = .next t ∧ exec .encb t = .next (s.setErr 0#8) := by
  obtain ⟨p, hp⟩ : ∃ p, decrypt s.k s.tables (s.l, s.r) = p := ⟨_, rfl⟩
  have undo : encrypt s.k s.tables p = (s.l, s.r) := by rw [← hp, encrypt_decrypt]
  refine ⟨_, exec_decb_ready hctx hp, ?_⟩
  rw [exec_encb_ready (s := (s.setLR p).setErr 0#8) hctx undo, setLR_setErr_restore]

/-- Settles O26: the two outcomes of ENCB, with the pair it writes named. -/
theorem encbEncryptsInPlace : Obligations.EncbEncryptsInPlace := by
  refine fun s => ⟨fun hctx => ?_, exec_encb_noContext⟩
  generalize hp : encrypt s.k s.tables (s.l, s.r) = p
  exact exec_encb_ready hctx hp

/-- Settles O27: the two outcomes of DECB, and the two ways round, where Decrypt and Encrypt cancel (R135 (a)). -/
theorem decbDecryptsInPlaceAndUndoesEncb : Obligations.DecbDecryptsInPlaceAndUndoesEncb := by
  refine fun s => ⟨fun hctx => ?_, exec_decb_noContext, exec_decb_after_encb, exec_encb_after_decb⟩
  generalize hp : decrypt s.k s.tables (s.l, s.r) = p
  exact exec_decb_ready hctx hp

end Sys2Proof.Machine

/-! ### Padding (R150 to R153) -/

namespace Sys2Proof.Machine

/-- The pad bytes of R150: none on an aligned sequence, else the marker and zeros up to the block's end. -/
theorem alignToBlock_eq_append (s : List Byte) : ∃ pad : List Byte,
    alignToBlock s = s ++ pad ∧ (pad = [] ∨ ∃ n, pad = 0x80#8 :: List.replicate n 0#8) := by
  by_cases haligned : s.length % 8 = 0
  · exact ⟨[], by rw [alignToBlock_aligned haligned, List.append_nil], .inl rfl⟩
  · exact ⟨_, alignToBlock_unaligned haligned, .inr ⟨_, rfl⟩⟩

/-- Settles O28: the form of the pad bytes, with the length of the padded sequence a multiple of 8 and at most seven more. -/
theorem alignToBlockPadsToTheNextMultiple : Obligations.AlignToBlockPadsToTheNextMultiple := by
  intro s
  obtain ⟨pad, hpadded, hform⟩ := alignToBlock_eq_append s
  have hmod := alignToBlock_length_mod s
  have hbound := (alignToBlock_length_bounds s).2
  rw [hpadded, List.length_append] at hmod hbound
  exact ⟨pad, hpadded, hmod, by omega, hform⟩

/-- A sequence whose reverse is zeros and then the marker ends in the marker and zeros. -/
theorem reverse_eq_zeros_marker_iff (s before : List Byte) (n : Nat) :
    s.reverse = List.replicate n 0#8 ++ 0x80#8 :: before ↔
      s = before.reverse ++ 0x80#8 :: List.replicate n 0#8 := by
  rw [List.reverse_eq_iff]
  simp

/-- R151 with R153: the index found is that of a marker with nothing but zeros behind it, wherever it stands. -/
theorem paddingIndex_eq_some_iff (s : List Byte) (p : Nat) :
    paddingIndex s = some p ↔ ∃ pre n, s = pre ++ 0x80#8 :: List.replicate n 0#8 ∧ p = pre.length := by
  unfold paddingIndex
  rw [scanBack_eq_some]
  constructor
  · rintro ⟨n, before, hs, hp⟩
    exact ⟨before.reverse, n, (reverse_eq_zeros_marker_iff s before n).1 hs, by simpa using hp⟩
  · rintro ⟨pre, n, hs, hp⟩
    refine ⟨n, pre.reverse, (reverse_eq_zeros_marker_iff s pre.reverse n).2 ?_, by simpa using hp⟩
    rwa [List.reverse_reverse]

theorem strip_of_paddingIndex_some {s : List Byte} {p : Nat} (h : paddingIndex s = some p) : strip s = s.take p := by
  simp [strip, h]

theorem strip_of_paddingIndex_none {s : List Byte} (h : paddingIndex s = none) : strip s = s := by
  simp [strip, h]

/-- R152: the marker and the zeros behind it are cut off. -/
theorem strip_append_marker_zeros (pre : List Byte) (n : Nat) :
    strip (pre ++ 0x80#8 :: List.replicate n 0#8) = pre := by
  have hfound : paddingIndex (pre ++ 0x80#8 :: List.replicate n 0#8) = some pre.length :=
    (paddingIndex_eq_some_iff _ _).2 ⟨pre, n, rfl, rfl⟩
  rw [strip_of_paddingIndex_some hfound, List.take_left]

/-- R152: a sequence that does not end in the marker and zeros is left whole. -/
theorem strip_of_no_marker {s : List Byte} (hno : ∀ pre n, s ≠ pre ++ 0x80#8 :: List.replicate n 0#8) :
    strip s = s := by
  cases hfound : paddingIndex s with
  | none => exact strip_of_paddingIndex_none hfound
  | some p =>
    obtain ⟨pre, n, hs, -⟩ := (paddingIndex_eq_some_iff s p).1 hfound
    exact absurd hs (hno pre n)

/-- Settles O29: the exact domain and value of PaddingIndex, from which the two cases of Strip follow. -/
theorem stripCutsAtTheLastMarker : Obligations.StripCutsAtTheLastMarker :=
  ⟨paddingIndex_eq_some_iff, strip_append_marker_zeros, fun _ => strip_of_no_marker⟩

end Sys2Proof.Machine

/-! ### Electronic codebook (R166, R168) -/

namespace Sys2Proof.Machine

/-- A block-wise pass over joined blocks: each block of the result is the image of the block read at the same address. -/
theorem memRead_joinBlocks_map (f : Block → Block) (xs : List Block) {b : Nat} (hb : 8 * b < (joinBlocks xs).length) :
    ∃ x, memRead (joinBlocks xs) (8 * b) 8 = some x ∧ memRead (joinBlocks (xs.map f)) (8 * b) 8 = some (f x) := by
  have inside : b < xs.length := by rw [joinBlocks_length] at hb; omega
  refine ⟨xs[b], ?_, ?_⟩
  · rw [memRead_joinBlocks, List.getElem?_eq_getElem inside]
  · rw [memRead_joinBlocks, List.getElem?_map, List.getElem?_eq_getElem inside, Option.map_some]

theorem joinBlocks_map_length (f : Block → Block) (xs : List Block) :
    (joinBlocks (xs.map f)).length = (joinBlocks xs).length := by
  rw [joinBlocks_length, joinBlocks_length, List.length_map]

/-- R166: ECBE on a READY core with a non-empty `IN`, with the blocks of the padded `IN` named. -/
theorem exec_ecbe_ready {s : State} (hctx : s.ctx = true) (hin : s.inBuf ≠ []) :
    ∃ ps : List Block, alignToBlock s.inBuf = joinBlocks ps ∧
      exec .ecbe s = .next ((s.setOut (joinBlocks (ps.map (encryptBlock s.k s.tables)))).setErr 0#8) := by
  obtain ⟨hno, -⟩ | ⟨-, hempty, -⟩ | ⟨-, -, hexec⟩ := execEcbe_spec s
  · simp [hctx] at hno
  · exact absurd hempty hin
  · exact hexec

/-- R210 for ECBE. -/
theorem exec_ecbe_noContext {s : State} (hctx : s.ctx = false) : exec .ecbe s = .next (s.setErr 5#8) := by
  obtain ⟨-, hexec⟩ | ⟨hyes, -⟩ | ⟨hyes, -⟩ := execEcbe_spec s
  · exact hexec
  · simp [hctx] at hyes
  · simp [hctx] at hyes

/-- R166 with an empty `IN`. -/
theorem exec_ecbe_empty {s : State} (hctx : s.ctx = true) (hin : s.inBuf = []) :
    exec .ecbe s = .next (s.setErr 2#8) := by
  obtain ⟨hno, -⟩ | ⟨-, -, hexec⟩ | ⟨-, hne, -⟩ := execEcbe_spec s
  · simp [hctx] at hno
  · exact hexec
  · exact absurd hin hne

/-- R168: ECBD on a READY core with whole blocks in `IN`, with these blocks named. -/
theorem exec_ecbd_ready {s : State} (hctx : s.ctx = true) (hin : s.inBuf ≠ []) (hwhole : s.inBuf.length % 8 = 0) :
    ∃ cs : List Block, s.inBuf = joinBlocks cs ∧
      exec .ecbd s = .next ((s.setOut (strip (joinBlocks (cs.map (decryptBlock s.k s.tables))))).setErr 0#8) := by
  obtain ⟨hno, -⟩ | ⟨-, hempty, -⟩ | ⟨-, -, hpartial, -⟩ | ⟨-, -, -, hexec⟩ := execEcbd_spec s
  · simp [hctx] at hno
  · exact absurd hempty hin
  · exact absurd hwhole hpartial
  · exact hexec

/-- R210 for ECBD. -/
theorem exec_ecbd_noContext {s : State} (hctx : s.ctx = false) : exec .ecbd s = .next (s.setErr 5#8) := by
  obtain ⟨-, hexec⟩ | ⟨hyes, -⟩ | ⟨hyes, -⟩ | ⟨hyes, -⟩ := execEcbd_spec s
  · exact hexec
  · simp [hctx] at hyes
  · simp [hctx] at hyes
  · simp [hctx] at hyes

/-- R168 with an empty `IN`. -/
theorem exec_ecbd_empty {s : State} (hctx : s.ctx = true) (hin : s.inBuf = []) :
    exec .ecbd s = .next (s.setErr 2#8) := by
  obtain ⟨hno, -⟩ | ⟨-, -, hexec⟩ | ⟨-, hne, -⟩ | ⟨-, hne, -⟩ := execEcbd_spec s
  · simp [hctx] at hno
  · exact hexec
  · exact absurd hin hne
  · exact absurd hin hne

/-- R211 for ECBD: a partial block in `IN`. -/
theorem exec_ecbd_badLength {s : State} (hctx : s.ctx = true) (hin : s.inBuf ≠ []) (hpartial : s.inBuf.length % 8 ≠ 0) :
    exec .ecbd s = .next (s.setErr 6#8) := by
  obtain ⟨hno, -⟩ | ⟨-, hempty, -⟩ | ⟨-, -, -, hexec⟩ | ⟨-, -, hwhole, -⟩ := execEcbd_spec s
  · simp [hctx] at hno
  · exact absurd hempty hin
  · exact hexec
  · exact absurd hwhole hpartial

/-- Settles O31: the three outcomes of ECBE; in the successful one `OUT` is the padded `IN` mapped block by block. -/
theorem ecbeEncryptsEveryPaddedBlock : Obligations.EcbeEncryptsEveryPaddedBlock := by
  refine fun s => ⟨fun hctx hin => ?_, exec_ecbe_noContext, exec_ecbe_empty⟩
  obtain ⟨ps, hps, hexec⟩ := exec_ecbe_ready hctx hin
  refine ⟨_, hexec, rfl, ?_⟩
  rw [State.setErr_outBuf, State.setOut_outBuf, joinBlocks_map_length, hps]
  exact ⟨rfl, fun b hb => memRead_joinBlocks_map (encryptBlock s.k s.tables) ps hb⟩

/-- Settles O32: the four outcomes of ECBD; in the successful one the plain bytes before the strip are `IN` mapped block by
block. -/
theorem ecbdDecryptsEveryBlockAndStrips : Obligations.EcbdDecryptsEveryBlockAndStrips := by
  refine fun s => ⟨fun hctx hin hwhole => ?_, exec_ecbd_noContext, exec_ecbd_empty, exec_ecbd_badLength⟩
  obtain ⟨cs, hcs, hexec⟩ := exec_ecbd_ready hctx hin hwhole
  refine ⟨_, hexec, ?_⟩
  rw [joinBlocks_map_length, hcs]
  exact ⟨rfl, fun b hb => memRead_joinBlocks_map (decryptBlock s.k s.tables) cs hb⟩

end Sys2Proof.Machine

/-! ### Cipher block chaining (R182, R183, R185, R186) -/

namespace Sys2Proof.Machine

/-- The block behind block `b` of joined blocks (R54). -/
theorem memRead_joinBlocks_next (xs : List Block) (b : Nat) : memRead (joinBlocks xs) (8 * b + 8) 8 = xs[b + 1]? :=
  memRead_joinBlocks xs (b + 1)

/-- R182: the IV stands in clear in front. -/
theorem cbcEnc_take_iv (k : Subkeys) (t : Tables) (ps : List Block) (iv : Block) :
    (cbcEnc k t ps iv).take 8 = iv.toList := by
  rw [cbcEnc, joinBlocks_cons, List.take_left' iv.length_toList]

/-- R182 in reads: behind the block at `8*b` stands the encryption of plaintext block `b` exclusive or that block. -/
theorem memRead_cbcEnc (k : Subkeys) (t : Tables) (ps : List Block) (iv : Block) {b : Nat}
    (hb : 8 * b < (joinBlocks ps).length) : ∃ p prev,
      memRead (joinBlocks ps) (8 * b) 8 = some p ∧ memRead (cbcEnc k t ps iv) (8 * b) 8 = some prev ∧
      memRead (cbcEnc k t ps iv) (8 * b + 8) 8 = some (encryptBlock k t (xor8 p prev)) := by
  have inside : b < ps.length := by rw [joinBlocks_length] at hb; omega
  obtain ⟨prev, hprev, hnext⟩ := cbcChain_getElem? k t iv ps b inside
  refine ⟨ps[b], prev, ?_, ?_, ?_⟩
  · rw [memRead_joinBlocks, List.getElem?_eq_getElem inside]
  · rw [cbcEnc, memRead_joinBlocks, hprev]
  · rw [cbcEnc, memRead_joinBlocks_next, hnext]

/-- R185 in reads: plaintext block `b` is the decryption of ciphertext block `b` exclusive or the block before it. -/
theorem memRead_cbcDec (k : Subkeys) (t : Tables) (iv : Block) (cs : List Block) {b : Nat}
    (hb : 8 * b < (cbcDec k t iv cs).length) : ∃ prev c,
      memRead (joinBlocks (iv :: cs)) (8 * b) 8 = some prev ∧ memRead (joinBlocks (iv :: cs)) (8 * b + 8) 8 = some c ∧
      memRead (cbcDec k t iv cs) (8 * b) 8 = some (xor8 (decryptBlock k t c) prev) := by
  have inside : b < cs.length := by rw [cbcDec_length] at hb; omega
  obtain ⟨prev, hprev, hplain⟩ := cbcUnchain_getElem? k t iv cs b inside
  refine ⟨prev, cs[b], ?_, ?_, ?_⟩
  · rw [memRead_joinBlocks, hprev]
  · rw [memRead_joinBlocks_next, List.getElem?_cons_succ, List.getElem?_eq_getElem inside]
  · rw [cbcDec, memRead_joinBlocks, hplain]

/-- R183: CBCEI on a READY core with an 8-byte `IV` and a non-empty `IN`, with the IV and the blocks of the padded `IN`
named. -/
theorem exec_cbcei_ready {s : State} (hctx : s.ctx = true) (hiv : s.ivBuf.length = 8) (hin : s.inBuf ≠ []) :
    ∃ (iv : Block) (ps : List Block), iv.toList = s.ivBuf ∧ alignToBlock s.inBuf = joinBlocks ps ∧
      exec .cbcei s = .next ((s.setOut (cbcEnc s.k s.tables ps iv)).setErr 0#8) := by
  obtain ⟨hno, -⟩ | ⟨-, hne, -⟩ | ⟨-, -, hempty, -⟩ | ⟨-, -, -, hexec⟩ := execCbcei_spec s
  · simp [hctx] at hno
  · exact absurd hiv hne
  · exact absurd hempty hin
  · exact hexec

/-- R210 for CBCEI. -/
theorem exec_cbcei_noContext {s : State} (hctx : s.ctx = false) : exec .cbcei s = .next (s.setErr 5#8) := by
  obtain ⟨-, hexec⟩ | hready := execCbcei_spec s
  · exact hexec
  · simp [hctx] at hready

/-- R203: an `IV` that is not 8 bytes long, whatever `IN` holds. -/
theorem exec_cbcei_invalidIVSize {s : State} (hctx : s.ctx = true) (hiv : s.ivBuf.length ≠ 8) :
    exec .cbcei s = .next (s.setErr 3#8) := by
  obtain ⟨hno, -⟩ | ⟨-, -, hexec⟩ | hlength := execCbcei_spec s
  · simp [hctx] at hno
  · exact hexec
  · simp [hiv] at hlength

/-- R183 with an empty `IN`. -/
theorem exec_cbcei_empty {s : State} (hctx : s.ctx = true) (hiv : s.ivBuf.length = 8) (hin : s.inBuf = []) :
    exec .cbcei s = .next (s.setErr 2#8) := by
  obtain ⟨hno, -⟩ | ⟨-, hne, -⟩ | ⟨-, -, -, hexec⟩ | ⟨-, -, hne, -⟩ := execCbcei_spec s
  · simp [hctx] at hno
  · exact absurd hiv hne
  · exact hexec
  · exact absurd hin hne

/-- R186: CBCD on a READY core with an IV and whole blocks behind it in `IN`, with these blocks named. -/
theorem exec_cbcd_ready {s : State} (hctx : s.ctx = true) (hlong : 8 < s.inBuf.length)
    (hwhole : (s.inBuf.length - 8) % 8 = 0) :
    ∃ (iv : Block) (cs : List Block), s.inBuf = joinBlocks (iv :: cs) ∧
      exec .cbcd s = .next ((s.setOut (strip (cbcDec s.k s.tables iv cs))).setErr 0#8) := by
  obtain ⟨hno, -⟩ | ⟨-, hshort, -⟩ | ⟨-, -, hpartial, -⟩ | ⟨-, -, -, hexec⟩ := execCbcd_spec s
  · simp [hctx] at hno
  · exact absurd hlong hshort.not_gt
  · exact absurd hwhole hpartial
  · exact hexec

/-- R210 for CBCD. -/
theorem exec_cbcd_noContext {s : State} (hctx : s.ctx = false) : exec .cbcd s = .next (s.setErr 5#8) := by
  obtain ⟨-, hexec⟩ | hready := execCbcd_spec s
  · exact hexec
  · simp [hctx] at hready

/-- R204: nothing behind the IV, or not even a whole IV. -/
theorem exec_cbcd_ciphertextTooShort {s : State} (hctx : s.ctx = true) (hshort : s.inBuf.length ≤ 8) :
    exec .cbcd s = .next (s.setErr 4#8) := by
  obtain ⟨hno, -⟩ | ⟨-, -, hexec⟩ | hlong := execCbcd_spec s
  · simp [hctx] at hno
  · exact hexec
  · simp [hshort.not_gt] at hlong

/-- R211 for CBCD: a partial block behind the IV. -/
theorem exec_cbcd_badLength {s : State} (hctx : s.ctx = true) (hlong : 8 < s.inBuf.length)
    (hpartial : (s.inBuf.length - 8) % 8 ≠ 0) : exec .cbcd s = .next (s.setErr 6#8) := by
  obtain ⟨hno, -⟩ | ⟨-, hshort, -⟩ | ⟨-, -, -, hexec⟩ | ⟨-, -, hwhole, -⟩ := execCbcd_spec s
  · simp [hctx] at hno
  · exact absurd hlong hshort.not_gt
  · exact hexec
  · exact absurd hwhole hpartial

/-- Settles O36: the four outcomes of CBCEI; in the successful one `OUT` is the CBC encryption of the padded `IN`, whose
blocks are `memRead_cbcEnc`. -/
theorem cbceiChainsFromTheIvBuffer : Obligations.CbceiChainsFromTheIvBuffer := by
  refine fun s => ⟨fun hctx hlength hin => ?_, exec_cbcei_noContext, exec_cbcei_invalidIVSize, exec_cbcei_empty⟩
  obtain ⟨iv, ps, hiv, hps, hexec⟩ := exec_cbcei_ready hctx hlength hin
  refine ⟨_, hexec, rfl, ?_⟩
  rw [State.setErr_outBuf, State.setOut_outBuf, hps, ← hiv]
  have length_eq : (cbcEnc s.k s.tables ps iv).length = 8 + (joinBlocks ps).length := by
    rw [cbcEnc_length, joinBlocks_length]
  exact ⟨length_eq, cbcEnc_take_iv _ _ ps iv, fun b hb => memRead_cbcEnc _ _ ps iv hb⟩

/-- Settles O39: the four outcomes of CBCD; in the successful one the plain bytes before the strip are the CBC decryption of
`IN`, whose blocks are `memRead_cbcDec`. -/
theorem cbcdUnchainsAndStrips : Obligations.CbcdUnchainsAndStrips := by
  refine fun s => ⟨fun hctx hlong hwhole => ?_, exec_cbcd_noContext, exec_cbcd_ciphertextTooShort, exec_cbcd_badLength⟩
  obtain ⟨iv, cs, hcs, hexec⟩ := exec_cbcd_ready hctx hlong hwhole
  refine ⟨_, hexec, ?_⟩
  rw [hcs]
  have length_eq : (cbcDec s.k s.tables iv cs).length + 8 = (joinBlocks (iv :: cs)).length := by
    rw [cbcDec_length, joinBlocks_length, List.length_cons, Nat.mul_succ]
  exact ⟨length_eq, fun b hb => memRead_cbcDec _ _ iv cs hb⟩

end Sys2Proof.Machine

/-! ### Errors: the one code each command reports (R200 to R213) -/

namespace Sys2Proof.Machine

/-- R210 for CBCE: the test comes before the draw. -/
theorem exec_cbce_noContext {s : State} (hctx : s.ctx = false) : exec .cbce s = .next (s.setErr 5#8) := by
  obtain ⟨-, hexec⟩ | ⟨hyes, -⟩ | ⟨hyes, -⟩ := execCbce_spec s
  · exact hexec
  · simp [hctx] at hyes
  · simp [hctx] at hyes

/-- The code of the first test of R213 that fails for command `i` in state `s`, or 0 when none does;
`endsWith_reportedCode` is what the model says of it. -/
def reportedCode (i : Instr) (s : State) : Byte :=
  match i with
  | .init => if s.keyBuf.length ≠ 32 then 1#8 else 0#8
  | .encb | .decb => if s.ctx = false then 5#8 else 0#8
  | .ecbe | .cbce => if s.ctx = false then 5#8 else if s.inBuf.length = 0 then 2#8 else 0#8
  | .ecbd =>
    if s.ctx = false then 5#8 else if s.inBuf.length = 0 then 2#8 else if s.inBuf.length % 8 ≠ 0 then 6#8 else 0#8
  | .cbcei =>
    if s.ctx = false then 5#8 else if s.ivBuf.length ≠ 8 then 3#8 else if s.inBuf.length = 0 then 2#8 else 0#8
  | .cbcd =>
    if s.ctx = false then 5#8 else if s.inBuf.length ≤ 8 then 4#8 else if (s.inBuf.length - 8) % 8 ≠ 0 then 6#8
    else 0#8

/-- A command that raised an error (R206), after any number of draws. -/
theorem endsWith_of_raised {i : Instr} {s : State} {c code : Byte} {n : Nat}
    (hexec : exec i s = .next { s with err := c, draws := n }) (hcode : code = c) : EndsWith i s code :=
  hcode ▸ ⟨_, hexec, rfl, fun _ => rfl⟩

/-- A command that completed (R28): whatever it wrote, it reports no error. -/
theorem endsWith_of_completed {i : Instr} {s t : State} {code : Byte} (hexec : exec i s = .next (t.setErr 0#8))
    (hcode : code = 0#8) : EndsWith i s code :=
  hcode ▸ ⟨_, hexec, rfl, fun hne => absurd rfl hne⟩

/-- R213: each command ends with the code of its first failing test. The cases of its spec lemma are these tests, in their
order. -/
theorem endsWith_reportedCode (i : Instr) (s : State) : EndsWith i s (reportedCode i s) := by
  cases i with
  | init =>
    obtain ⟨hkey, h⟩ | ⟨hkey, _, -, h⟩ := execInit_spec s
    · exact endsWith_of_raised h (by simp [reportedCode, hkey])
    · exact endsWith_of_completed h (by simp [reportedCode, hkey])
  | encb =>
    obtain ⟨hctx, h⟩ | ⟨hctx, _, -, h⟩ := execEncb_spec s
    · exact endsWith_of_raised h (by simp [reportedCode, hctx])
    · exact endsWith_of_completed h (by simp [reportedCode, hctx])
  | decb =>
    obtain ⟨hctx, h⟩ | ⟨hctx, _, -, h⟩ := execDecb_spec s
    · exact endsWith_of_raised h (by simp [reportedCode, hctx])
    · exact endsWith_of_completed h (by simp [reportedCode, hctx])
  | ecbe =>
    obtain ⟨hctx, h⟩ | ⟨hctx, hin, h⟩ | ⟨hctx, hin, _, -, h⟩ := execEcbe_spec s
    · exact endsWith_of_raised h (by simp [reportedCode, hctx])
    · exact endsWith_of_raised h (by simp [reportedCode, hctx, hin])
    · exact endsWith_of_completed h (by simp [reportedCode, hctx, hin])
  | ecbd =>
    obtain ⟨hctx, h⟩ | ⟨hctx, hin, h⟩ | ⟨hctx, hin, hmod, h⟩ | ⟨hctx, hin, hmod, _, -, h⟩ := execEcbd_spec s
    · exact endsWith_of_raised h (by simp [reportedCode, hctx])
    · exact endsWith_of_raised h (by simp [reportedCode, hctx, hin])
    · exact endsWith_of_raised h (by simp [reportedCode, hctx, hin, hmod])
    · exact endsWith_of_completed h (by simp [reportedCode, hctx, hin, hmod])
  | cbce =>
    obtain ⟨hctx, h⟩ | ⟨hctx, hin, h⟩ | ⟨hctx, hin, _, -, h⟩ := execCbce_spec s
    · exact endsWith_of_raised h (by simp [reportedCode, hctx])
    · exact endsWith_of_raised h (by simp [reportedCode, hctx, hin])
    · exact endsWith_of_completed h (by simp [reportedCode, hctx, hin])
  | cbcei =>
    obtain ⟨hctx, h⟩ | ⟨hctx, hiv, h⟩ | ⟨hctx, hiv, hin, h⟩ | ⟨hctx, hiv, hin, _, _, -, -, h⟩ := execCbcei_spec s
    · exact endsWith_of_raised h (by simp [reportedCode, hctx])
    · exact endsWith_of_raised h (by simp [reportedCode, hctx, hiv])
    · exact endsWith_of_raised h (by simp [reportedCode, hctx, hiv, hin])
    · exact endsWith_of_completed h (by simp [reportedCode, hctx, hiv, hin])
  | cbcd =>
    obtain ⟨hctx, h⟩ | ⟨hctx, hshort, h⟩ | ⟨hctx, hlong, hmod, h⟩ | ⟨hctx, hlong, hmod, _, _, -, h⟩ := execCbcd_spec s
    · exact endsWith_of_raised h (by simp [reportedCode, hctx])
    · exact endsWith_of_raised h (by simp [reportedCode, hctx, hshort])
    · exact endsWith_of_raised h (by simp [reportedCode, hctx, hlong.not_ge, hmod])
    · exact endsWith_of_completed h (by simp [reportedCode, hctx, hlong.not_ge, hmod])

/-- Settles O49: a byte outside the map decodes to no command, and each command ends with its `reportedCode`, which is the
chain of tests of R213. -/
theorem errorPriority : Obligations.ErrorPriority :=
  fun s => ⟨fun _ hc => issueCommand_error (decode_outside_map hc) s, fun _ _ hi => issueCommand_ok hi s,
    endsWith_reportedCode .init s, endsWith_reportedCode .encb s, endsWith_reportedCode .decb s,
    endsWith_reportedCode .ecbe s, endsWith_reportedCode .ecbd s, endsWith_reportedCode .cbce s,
    endsWith_reportedCode .cbcei s, endsWith_reportedCode .cbcd s⟩

/-- R203: only the chain of CBCEI has a test of the IV's length. -/
theorem reportedCode_ne_invalidIVSize {i : Instr} (hi : i ≠ .cbcei) (s : State) : reportedCode i s ≠ 3#8 := by
  cases i with
  | cbcei => exact absurd rfl hi
  | init | encb | decb | ecbe | ecbd | cbce | cbcd => unfold reportedCode; split_ifs <;> decide

/-- Settles O45: CBCEI tests the IV before `IN`, and no other command reports 3 (`reportedCode_ne_invalidIVSize`). -/
theorem invalidIvSizeIsRaisedByCbceiAlone : Obligations.InvalidIvSizeIsRaisedByCbceiAlone := by
  refine ⟨fun s => exec_cbcei_invalidIVSize, fun i s hi => ?_⟩
  obtain ⟨t, hexec, herr, -⟩ := endsWith_reportedCode i s
  exact ⟨t, hexec, herr ▸ reportedCode_ne_invalidIVSize hi s⟩

/-- Settles O18: both cases of INIT (`initBuildsTheContext`), read for ERR alone. -/
theorem initFailsExactlyOnAWrongKeySize : Obligations.InitFailsExactlyOnAWrongKeySize := by
  refine fun s => ⟨initBuildsTheContext.2 s, fun len_eq => ?_⟩
  obtain ⟨t, hexec, ht, -⟩ := initBuildsTheContext.1 s len_eq
  exact ⟨t, hexec, congrArg State.err ht⟩

/-- Settles O42: command by command, the test of `CTX` is the first. -/
theorem commandsBeforeInitRaiseNoContext : Obligations.CommandsBeforeInitRaiseNoContext := by
  intro i s hi hctx
  cases i with
  | init => exact absurd rfl hi
  | encb => exact exec_encb_noContext hctx
  | decb => exact exec_decb_noContext hctx
  | ecbe => exact exec_ecbe_noContext hctx
  | ecbd => exact exec_ecbd_noContext hctx
  | cbce => exact exec_cbce_noContext hctx
  | cbcei => exact exec_cbcei_noContext hctx
  | cbcd => exact exec_cbcd_noContext hctx

/-- Settles O46: on a READY core the length of `IN` is the first test of CBCD. -/
theorem ciphertextTooShortIsRaisedUpToEightBytes : Obligations.CiphertextTooShortIsRaisedUpToEightBytes :=
  fun _ => exec_cbcd_ciphertextTooShort

/-- Settles O47: both decryption commands test for whole blocks last. -/
theorem badLengthIsRaisedOnPartialBlocks : Obligations.BadLengthIsRaisedOnPartialBlocks :=
  fun _ hctx => ⟨fun hne => exec_ecbd_badLength hctx (mt List.length_eq_zero_iff.2 hne), exec_cbcd_badLength hctx⟩

end Sys2Proof.Machine

/-! ### Sequences of CMD bytes (R80, R81, R93) -/

namespace Sys2Proof

/-- Only the byte of a command decodes to it. -/
theorem decode_eq_ok_iff {c : Byte} {i : Instr} : decode c = .ok i ↔ c = encode i := by
  constructor
  · intro h
    obtain ⟨j, hj, rfl⟩ | ⟨herr, -⟩ := Machine.decode_cases c
    · rw [hj, Except.ok.injEq] at h
      rw [h]
    · cases herr.symm.trans h
  · rintro rfl
    exact decode_encode i

/-- A sequence decodes to the commands whose encoding it is, and to nothing else. -/
theorem decodeAll_eq_ok_iff {cs : List Byte} {is : List Instr} : decodeAll cs = .ok is ↔ cs = encodeAll is := by
  induction cs generalizing is with
  | nil => cases is <;> simp [decodeAll, encodeAll]
  | cons c cs ih =>
    constructor
    · intro h
      rw [decodeAll] at h
      split at h
      · cases h
      · rename_i i hi
        split at h
        · cases h
        · rename_i js hjs
          rw [Except.ok.injEq] at h
          rw [← h, decode_eq_ok_iff.1 hi, ih.1 hjs]
          rfl
    · cases is with
      | nil => simp [encodeAll]
      | cons i is =>
        intro h
        obtain ⟨rfl, rfl⟩ := List.cons.inj h
        rw [decodeAll, decode_encode, ih.2 rfl]

/-- Every sequence of bytes of the map is the encoding of some commands. -/
theorem exists_eq_encodeAll {cs : List Byte} (h : ∀ c ∈ cs, 1 ≤ c.toNat ∧ c.toNat ≤ 8) : ∃ is, cs = encodeAll is := by
  induction cs with
  | nil => exact ⟨[], rfl⟩
  | cons c cs ih =>
    obtain ⟨i, rfl⟩ := exists_eq_encode (h c List.mem_cons_self)
    obtain ⟨is, rfl⟩ := ih fun d hd => h d (List.mem_cons_of_mem _ hd)
    exact ⟨i :: is, rfl⟩

/-- The bytes a sequence of commands writes lie in the map. -/
theorem encodeAll_bounds {is : List Instr} {c : Byte} (hc : c ∈ encodeAll is) : 1 ≤ c.toNat ∧ c.toNat ≤ 8 := by
  obtain ⟨i, -, rfl⟩ := List.mem_map.1 hc
  exact encode_toNat_bounds i

/-- Settles O2: decoding and encoding are inverse relations (`decodeAll_eq_ok_iff`), and the encodings are the sequences of
bytes of the map. -/
theorem commandStreamsDecodeAndEncodeAgree : Obligations.CommandStreamsDecodeAndEncodeAgree := by
  refine ⟨fun is _ => decodeAll_eq_ok_iff.2 rfl, fun cs is h => (decodeAll_eq_ok_iff.1 h).symm, fun cs => ?_⟩
  simp only [decodeAll_eq_ok_iff]
  constructor
  · rintro ⟨is, rfl⟩ c hc
    exact encodeAll_bounds hc
  · exact exists_eq_encodeAll

end Sys2Proof

/-! ### What a command reads and what it writes (R36, R65) -/

namespace Sys2Proof

/-- The commands that turn `IN` into `OUT` (R36, last row). -/
def Instr.isMode : Instr → Bool
  | .init | .encb | .decb => false
  | .ecbe | .ecbd | .cbce | .cbcei | .cbcd => true

theorem Instr.isMode_iff (i : Instr) :
    i.isMode = true ↔ i = .ecbe ∨ i = .ecbd ∨ i = .cbce ∨ i = .cbcei ∨ i = .cbcd := by
  cases i <;> simp [Instr.isMode]

end Sys2Proof

namespace Sys2Proof.Machine

/-- Everything a command can do to a state; `exec_effect` ties it to `exec`. -/
inductive Effect where
  | raise (code : Byte) (draws : Nat)       -- an error (R206), after that many draws
  | context (k : Subkeys) (tables : Tables) -- INIT (R113)
  | block (p : Word × Word)                 -- ENCB and DECB (R136, R137)
  | output (bs : List Byte) (draws : Nat)   -- a mode command, after that many draws

/-- The state an effect leaves. -/
def Effect.apply (s : State) : Effect → State
  | .raise code draws => { s with err := code, draws := s.draws + draws }
  | .context k tables => (s.setContext k tables).setErr 0#8
  | .block p => (s.setLR p).setErr 0#8
  | .output bs draws => { s with outBuf := bs, err := 0#8, draws := s.draws + draws }

/-- The effects command `i` can have in state `s`. -/
def Effect.Possible (i : Instr) (s : State) : Effect → Prop
  | .raise code draws => code ≠ 0#8 ∧ code.toNat ≤ 7 ∧ (i ≠ .cbce → draws = 0)
  | .context _ tables => i = .init ∧ s.keyBuf.length = 32 ∧ tables = tableBuild s.params.sbox
  | .block _ => (i = .encb ∨ i = .decb) ∧ s.ctx = true
  | .output bs draws =>
    i.isMode = true ∧ s.ctx = true ∧ bs.length ≤ s.inBuf.length + 16 ∧ (i ≠ .cbce → draws = 0)

/-- `s'` holds what command `i` reads in `s`: the context (R236: the subkeys and tables of a valid one only) for every
command but INIT, and each other field for its own readers. -/
structure ReadsAlike (i : Instr) (s s' : State) : Prop where
  keyBuf : i = .init → s'.keyBuf = s.keyBuf
  params : i = .init → s'.params = s.params
  ctx : i ≠ .init → s'.ctx = s.ctx
  k : i ≠ .init → s.ctx = true → s'.k = s.k
  tables : i ≠ .init → s.ctx = true → s'.tables = s.tables
  l : i = .encb ∨ i = .decb → s'.l = s.l
  r : i = .encb ∨ i = .decb → s'.r = s.r
  ivBuf : i = .cbcei → s'.ivBuf = s.ivBuf
  inBuf : i.isMode = true → s'.inBuf = s.inBuf
  draws : i = .cbce → s'.draws = s.draws

theorem ReadsAlike.refl (i : Instr) (s : State) : ReadsAlike i s s :=
  ⟨fun _ => rfl, fun _ => rfl, fun _ => rfl, fun _ _ => rfl, fun _ _ => rfl, fun _ => rfl, fun _ => rfl, fun _ => rfl,
    fun _ => rfl, fun _ => rfl⟩

/-- A state that holds what a command reads in a READY one is READY. -/
theorem ReadsAlike.ready {i : Instr} {s s' : State} (same : ReadsAlike i s s') (hi : i ≠ .init) (hctx : s.ctx = true) :
    s'.ctx = true :=
  (same.ctx hi).trans hctx

/-- R201: INIT with a key of the wrong length. -/
theorem exec_init_invalidKeySize {s : State} (hkey : s.keyBuf.length ≠ 32) : exec .init s = .next (s.setErr 1#8) :=
  initBuildsTheContext.2 s hkey

/-- R113: INIT with a key of 32 bytes, with the key named. -/
theorem exec_init_ready {s : State} (hkey : s.keyBuf.length = 32) : ∃ v : Vector Byte 32, v.toList = s.keyBuf ∧
    exec .init s = .next ((s.setContext (keySchedule v) (tableBuild s.params.sbox)).setErr 0#8) := by
  obtain ⟨hne, -⟩ | ⟨-, hexec⟩ := execInit_spec s
  · exact absurd hkey hne
  · exact hexec

/-- R184 with an empty `IN`: the draw has been made. -/
theorem exec_cbce_empty {s : State} (hctx : s.ctx = true) (hin : s.inBuf = []) :
    exec .cbce s = .next (s.countDraw.setErr 2#8) := by
  obtain ⟨hno, -⟩ | ⟨-, -, hexec⟩ | ⟨-, hne, -⟩ := execCbce_spec s
  · simp [hctx] at hno
  · exact hexec
  · exact absurd hin hne

/-- R184: CBCE on a READY core with a non-empty `IN`, with the blocks of the padded `IN` named. -/
theorem exec_cbce_ready {s : State} (hctx : s.ctx = true) (hin : s.inBuf ≠ []) :
    ∃ ps : List Block, alignToBlock s.inBuf = joinBlocks ps ∧
      exec .cbce s = .next ((s.countDraw.setOut (cbcEnc s.k s.tables ps s.drawnIv)).setErr 0#8) := by
  obtain ⟨hno, -⟩ | ⟨-, hempty, -⟩ | ⟨-, -, hexec⟩ := execCbce_spec s
  · simp [hctx] at hno
  · exact absurd hempty hin
  · exact hexec

/-- Command `i` has one effect in `s`, and the same one in every state that holds what it reads in `s`; `exec_effect` is that
this is so of every command and state. -/
def HasEffect (i : Instr) (s : State) : Prop :=
  ∃ e : Effect, e.Possible i s ∧ ∀ s', ReadsAlike i s s' → exec i s' = .next (e.apply s')

theorem init_hasEffect (s : State) : HasEffect .init s := by
  by_cases hkey : s.keyBuf.length = 32
  · obtain ⟨v, hv, -⟩ := exec_init_ready hkey
    refine ⟨.context (keySchedule v) (tableBuild s.params.sbox), ⟨rfl, hkey, rfl⟩, fun s' same => ?_⟩
    obtain ⟨v', hv', hexec⟩ := exec_init_ready (s := s') (by rw [same.keyBuf rfl, hkey])
    rw [same.keyBuf rfl, ← hv, Vector.toList_inj] at hv'
    rw [hexec, hv', same.params rfl]
    rfl
  · exact ⟨.raise 1#8 0, by simp [Effect.Possible],
      fun s' same => exec_init_invalidKeySize (by rwa [same.keyBuf rfl])⟩

/-- R210: without a context a command raises `NoContext`. -/
theorem noContext_hasEffect {i : Instr} {s : State} (hi : i ≠ .init) (hctx : s.ctx = false) : HasEffect i s :=
  ⟨.raise 5#8 0, by simp [Effect.Possible],
    fun s' same => commandsBeforeInitRaiseNoContext i s' hi ((same.ctx hi).trans hctx)⟩

theorem encb_hasEffect {s : State} (hctx : s.ctx = true) : HasEffect .encb s := by
  refine ⟨.block (encrypt s.k s.tables (s.l, s.r)), ⟨.inl rfl, hctx⟩, fun s' same => ?_⟩
  refine exec_encb_ready (same.ready (by simp) hctx) ?_
  rw [same.k (by simp) hctx, same.tables (by simp) hctx, same.l (by simp), same.r (by simp)]

theorem decb_hasEffect {s : State} (hctx : s.ctx = true) : HasEffect .decb s := by
  refine ⟨.block (decrypt s.k s.tables (s.l, s.r)), ⟨.inr rfl, hctx⟩, fun s' same => ?_⟩
  refine exec_decb_ready (same.ready (by simp) hctx) ?_
  rw [same.k (by simp) hctx, same.tables (by simp) hctx, same.l (by simp), same.r (by simp)]

theorem ecbe_hasEffect {s : State} (hctx : s.ctx = true) : HasEffect .ecbe s := by
  by_cases hin : s.inBuf = []
  · exact ⟨.raise 2#8 0, by simp [Effect.Possible],
      fun s' same => exec_ecbe_empty (same.ready (by simp) hctx) ((same.inBuf rfl).trans hin)⟩
  · obtain ⟨ps, hps, -⟩ := exec_ecbe_ready hctx hin
    have hlen := (alignToBlock_length_bounds s.inBuf).2
    refine ⟨.output (joinBlocks (ps.map (encryptBlock s.k s.tables))) 0, ⟨rfl, hctx, ?_, fun _ => rfl⟩,
      fun s' same => ?_⟩
    · rw [joinBlocks_map_length, ← hps]; omega
    · obtain ⟨ps', hps', hexec⟩ := exec_ecbe_ready (same.ready (by simp) hctx) (same.inBuf rfl ▸ hin)
      rw [same.inBuf rfl, hps] at hps'
      rw [hexec, ← joinBlocks_inj hps', same.k (by simp) hctx, same.tables (by simp) hctx]
      rfl

theorem ecbd_hasEffect {s : State} (hctx : s.ctx = true) : HasEffect .ecbd s := by
  by_cases hin : s.inBuf = []
  · exact ⟨.raise 2#8 0, by simp [Effect.Possible],
      fun s' same => exec_ecbd_empty (same.ready (by simp) hctx) ((same.inBuf rfl).trans hin)⟩
  by_cases hwhole : s.inBuf.length % 8 = 0
  · obtain ⟨cs, hcs, -⟩ := exec_ecbd_ready hctx hin hwhole
    have hlen := strip_length_le (joinBlocks (cs.map (decryptBlock s.k s.tables)))
    rw [joinBlocks_map_length, ← hcs] at hlen
    refine ⟨.output (strip (joinBlocks (cs.map (decryptBlock s.k s.tables)))) 0,
      ⟨rfl, hctx, by omega, fun _ => rfl⟩, fun s' same => ?_⟩
    obtain ⟨cs', hcs', hexec⟩ := exec_ecbd_ready (same.ready (by simp) hctx) (same.inBuf rfl ▸ hin)
      (same.inBuf rfl ▸ hwhole)
    rw [same.inBuf rfl, hcs] at hcs'
    rw [hexec, ← joinBlocks_inj hcs', same.k (by simp) hctx, same.tables (by simp) hctx]
    rfl
  · exact ⟨.raise 6#8 0, by simp [Effect.Possible],
      fun s' same => exec_ecbd_badLength (same.ready (by simp) hctx) (same.inBuf rfl ▸ hin)
        (same.inBuf rfl ▸ hwhole)⟩

/-- A CBC encryption is an IV and at most seven pad bytes longer than its plaintext. -/
theorem cbcEnc_length_le (k : Subkeys) (t : Tables) (iv : Block) {bs : List Byte} {ps : List Block}
    (hps : alignToBlock bs = joinBlocks ps) : (cbcEnc k t ps iv).length ≤ bs.length + 16 := by
  have hlen := (alignToBlock_length_bounds bs).2
  rw [hps, joinBlocks_length] at hlen
  rw [cbcEnc_length]
  omega

theorem cbce_hasEffect {s : State} (hctx : s.ctx = true) : HasEffect .cbce s := by
  by_cases hin : s.inBuf = []
  · exact ⟨.raise 2#8 1, by simp [Effect.Possible],
      fun s' same => exec_cbce_empty (same.ready (by simp) hctx) ((same.inBuf rfl).trans hin)⟩
  · obtain ⟨ps, hps, -⟩ := exec_cbce_ready hctx hin
    refine ⟨.output (cbcEnc s.k s.tables ps s.drawnIv) 1, ⟨rfl, hctx, cbcEnc_length_le _ _ _ hps, by simp⟩,
      fun s' same => ?_⟩
    obtain ⟨ps', hps', hexec⟩ := exec_cbce_ready (same.ready (by simp) hctx) (same.inBuf rfl ▸ hin)
    rw [same.inBuf rfl, hps] at hps'
    rw [hexec, ← joinBlocks_inj hps', same.k (by simp) hctx, same.tables (by simp) hctx, State.drawnIv, same.draws rfl]
    rfl

theorem cbcei_hasEffect {s : State} (hctx : s.ctx = true) : HasEffect .cbcei s := by
  by_cases hlength : s.ivBuf.length = 8
  case neg =>
    exact ⟨.raise 3#8 0, by simp [Effect.Possible],
      fun s' same => exec_cbcei_invalidIVSize (same.ready (by simp) hctx) (same.ivBuf rfl ▸ hlength)⟩
  by_cases hin : s.inBuf = []
  · exact ⟨.raise 2#8 0, by simp [Effect.Possible],
      fun s' same => exec_cbcei_empty (same.ready (by simp) hctx) (same.ivBuf rfl ▸ hlength)
        ((same.inBuf rfl).trans hin)⟩
  · obtain ⟨iv, ps, hiv, hps, -⟩ := exec_cbcei_ready hctx hlength hin
    refine ⟨.output (cbcEnc s.k s.tables ps iv) 0, ⟨rfl, hctx, cbcEnc_length_le _ _ _ hps, fun _ => rfl⟩,
      fun s' same => ?_⟩
    obtain ⟨iv', ps', hiv', hps', hexec⟩ := exec_cbcei_ready (same.ready (by simp) hctx)
      (same.ivBuf rfl ▸ hlength) (same.inBuf rfl ▸ hin)
    rw [same.ivBuf rfl, ← hiv, Vector.toList_inj] at hiv'
    rw [same.inBuf rfl, hps] at hps'
    rw [hexec, ← joinBlocks_inj hps', hiv', same.k (by simp) hctx, same.tables (by simp) hctx]
    rfl

theorem cbcd_hasEffect {s : State} (hctx : s.ctx = true) : HasEffect .cbcd s := by
  by_cases hlong : 8 < s.inBuf.length
  case neg =>
    exact ⟨.raise 4#8 0, by simp [Effect.Possible],
      fun s' same => exec_cbcd_ciphertextTooShort (same.ready (by simp) hctx)
        (same.inBuf rfl ▸ Nat.le_of_not_lt hlong)⟩
  by_cases hwhole : (s.inBuf.length - 8) % 8 = 0
  · obtain ⟨iv, cs, hcs, -⟩ := exec_cbcd_ready hctx hlong hwhole
    have hlen := strip_length_le (cbcDec s.k s.tables iv cs)
    have hin : s.inBuf.length = 8 * (cs.length + 1) := by rw [hcs, joinBlocks_length, List.length_cons]
    rw [cbcDec_length] at hlen
    refine ⟨.output (strip (cbcDec s.k s.tables iv cs)) 0, ⟨rfl, hctx, by omega, fun _ => rfl⟩, fun s' same => ?_⟩
    obtain ⟨iv', cs', hcs', hexec⟩ := exec_cbcd_ready (same.ready (by simp) hctx)
      (same.inBuf rfl ▸ hlong) (same.inBuf rfl ▸ hwhole)
    rw [same.inBuf rfl, hcs] at hcs'
    obtain ⟨hiv, hblocks⟩ := List.cons.inj (joinBlocks_inj hcs')
    rw [hexec, ← hiv, ← hblocks, same.k (by simp) hctx, same.tables (by simp) hctx]
    rfl
  · exact ⟨.raise 6#8 0, by simp [Effect.Possible],
      fun s' same => exec_cbcd_badLength (same.ready (by simp) hctx) (same.inBuf rfl ▸ hlong)
        (same.inBuf rfl ▸ hwhole)⟩

/-- What a command does is fixed by what it reads, and is one of the effects it can have. -/
theorem exec_effect (i : Instr) (s : State) : HasEffect i s := by
  by_cases hi : i = .init
  · exact hi ▸ init_hasEffect s
  cases hctx : s.ctx
  · exact noContext_hasEffect hi hctx
  cases i with
  | init => exact absurd rfl hi
  | encb => exact encb_hasEffect hctx
  | decb => exact decb_hasEffect hctx
  | ecbe => exact ecbe_hasEffect hctx
  | ecbd => exact ecbd_hasEffect hctx
  | cbce => exact cbce_hasEffect hctx
  | cbcei => exact cbcei_hasEffect hctx
  | cbcd => exact cbcd_hasEffect hctx

/-- A command that answers `t` has left `t` by one of its possible effects. -/
theorem exec_cases {i : Instr} {s t : State} (h : exec i s = .next t) : ∃ e : Effect, e.Possible i s ∧ t = e.apply s := by
  obtain ⟨e, he, hexec⟩ := exec_effect i s
  rw [hexec s (.refl i s), Host.Outcome.next.injEq] at h
  exact ⟨e, he, h.symm⟩

theorem exec_next (i : Instr) (s : State) : ∃ t, exec i s = .next t :=
  have ⟨e, _, hexec⟩ := exec_effect i s
  ⟨e.apply s, hexec s (.refl i s)⟩

/-- A state change `f` that keeps what a command reads and passes through its effects passes through the command. -/
theorem exec_map {i : Instr} {s t : State} (h : exec i s = .next t) (f : State → State) (same : ReadsAlike i s (f s))
    (through : ∀ e : Effect, e.Possible i s → e.apply (f s) = f (e.apply s)) : exec i (f s) = .next (f t) := by
  obtain ⟨e, he, hexec⟩ := exec_effect i s
  rw [hexec s (.refl i s), Host.Outcome.next.injEq] at h
  rw [hexec _ same, through e he, h]

/-! ### What a command leaves as it was (R36) -/

/-- Settles O52: INIT raises an error or writes the context, and neither touches `L`, `R` or a buffer. -/
theorem initFrame : Obligations.InitFrame := by
  intro s t h
  obtain ⟨e, he, rfl⟩ := exec_cases h
  cases e with
  | raise code draws =>
    obtain ⟨-, -, hdraws⟩ := he
    obtain rfl := hdraws (by simp)
    exact ⟨rfl, rfl, State.readByte_congr rfl rfl rfl rfl, rfl, rfl, rfl, rfl, fun _ => ⟨rfl, rfl, rfl⟩⟩
  | context k tables =>
    obtain ⟨-, hkey, -⟩ := he
    exact ⟨rfl, rfl, State.readByte_congr rfl rfl rfl rfl, rfl, rfl, rfl, rfl, fun hne => absurd hkey hne⟩
  | block p => simp [Effect.Possible] at he
  | output bs draws => simp [Effect.Possible, Instr.isMode] at he

/-- Settles O53: a block command raises an error or writes `L` and `R`, the latter on a READY core only. -/
theorem blockCommandFrame : Obligations.BlockCommandFrame := by
  intro i s t hi h
  obtain ⟨e, he, rfl⟩ := exec_cases h
  cases e with
  | raise code draws =>
    obtain ⟨-, -, hdraws⟩ := he
    obtain rfl := hdraws (by rintro rfl; simp at hi)
    exact ⟨rfl, rfl, rfl, State.readByte_congr rfl rfl rfl rfl, rfl, rfl, rfl, rfl, fun _ => ⟨rfl, rfl⟩⟩
  | context k tables => obtain ⟨rfl, -⟩ := he; simp at hi
  | block p =>
    obtain ⟨-, hctx⟩ := he
    exact ⟨rfl, rfl, rfl, State.readByte_congr rfl rfl rfl rfl, rfl, rfl, rfl, rfl, fun hno => by simp [hctx] at hno⟩
  | output bs draws => obtain ⟨hmode, -⟩ := he; obtain rfl | rfl := hi <;> cases hmode

/-- Settles O54: a mode command raises an error, which leaves the buffers, or replaces `OUT` and reports success. -/
theorem modeCommandFrame : Obligations.ModeCommandFrame := by
  intro i s t hi h
  rw [← Instr.isMode_iff] at hi
  obtain ⟨e, he, rfl⟩ := exec_cases h
  cases e with
  | raise code draws =>
    obtain ⟨-, -, hdraws⟩ := he
    have same_byte := State.readByte_congr (s := s) (t := (Effect.raise code draws).apply s) rfl rfl rfl rfl
    exact ⟨rfl, rfl, rfl, rfl, rfl, fun b off _ => same_byte b off, fun _ off => same_byte .out off, rfl, rfl, rfl,
      fun hne => by rw [hdraws hne]; rfl⟩
  | context k tables => obtain ⟨rfl, -⟩ := he; cases hi
  | block p => obtain ⟨rfl | rfl, -⟩ := he <;> cases hi
  | output bs draws =>
    obtain ⟨-, -, -, hdraws⟩ := he
    refine ⟨rfl, rfl, rfl, rfl, rfl, fun b off hb => ?_, fun hne => absurd rfl hne, rfl, rfl, rfl,
      fun hne => by rw [hdraws hne]; rfl⟩
    cases b with
    | out => exact absurd rfl hb
    | key | iv | inp => rfl

/-! ### What does not matter to a command (R24, R32, R65, R207, R236) -/

/-- Settles O51: no command reads ERR, and every effect writes it. -/
theorem earlierErrorsDoNotMatter : Obligations.EarlierErrorsDoNotMatter := by
  intro i s code
  obtain ⟨e, -, hexec⟩ := exec_effect i s
  rw [hexec s (.refl i s), hexec { s with err := code } { ReadsAlike.refl i s with }]
  cases e <;> rfl

/-- R65: `KEY` passes through every command but INIT. -/
theorem exec_map_keyBuf {i : Instr} {s t : State} (hi : i ≠ .init) (h : exec i s = .next t) (bs : List Byte) :
    exec i { s with keyBuf := bs } = .next { t with keyBuf := bs } :=
  exec_map h (fun u => { u with keyBuf := bs }) { ReadsAlike.refl i s with keyBuf := fun hinit => absurd hinit hi }
    fun e _ => by cases e <;> rfl

/-- R34: `IV` passes through every command but CBCEI. -/
theorem exec_map_ivBuf {i : Instr} {s t : State} (hi : i ≠ .cbcei) (h : exec i s = .next t) (bs : List Byte) :
    exec i { s with ivBuf := bs } = .next { t with ivBuf := bs } :=
  exec_map h (fun u => { u with ivBuf := bs }) { ReadsAlike.refl i s with ivBuf := fun hcbcei => absurd hcbcei hi }
    fun e _ => by cases e <;> rfl

/-- R34: `IN` passes through every command that is not of a mode. -/
theorem exec_map_inBuf {i : Instr} {s t : State} (hi : i = .init ∨ i = .encb ∨ i = .decb) (h : exec i s = .next t)
    (bs : List Byte) : exec i { s with inBuf := bs } = .next { t with inBuf := bs } := by
  have not_mode : i.isMode ≠ true := by obtain rfl | rfl | rfl := hi <;> simp [Instr.isMode]
  exact exec_map h (fun u => { u with inBuf := bs })
    { ReadsAlike.refl i s with inBuf := fun hmode => absurd hmode not_mode } fun e _ => by cases e <;> rfl

/-- R34: no command reads `OUT`; an effect leaves it, or replaces it whole. -/
theorem exec_outBuf {i : Instr} {s t : State} (h : exec i s = .next t) (bs : List Byte) :
    exec i { s with outBuf := bs } = .next t ∨
      t.outBuf = s.outBuf ∧ exec i { s with outBuf := bs } = .next { t with outBuf := bs } := by
  obtain ⟨e, -, hexec⟩ := exec_effect i s
  rw [hexec s (.refl i s), Host.Outcome.next.injEq] at h
  subst h
  have hexec' := hexec { s with outBuf := bs } { ReadsAlike.refl i s with }
  cases e with
  | output out draws => exact .inl hexec'
  | raise | context | block => exact .inr ⟨rfl, hexec'⟩

/-- Settles O55: one lemma per buffer, from what each command reads (`ReadsAlike`). -/
theorem buffersMatterOnlyToTheirReaders : Obligations.BuffersMatterOnlyToTheirReaders := by
  intro i s bs
  obtain ⟨t, h⟩ := exec_next i s
  exact ⟨t, h, fun hi => exec_map_keyBuf hi h bs, fun hi => exec_map_ivBuf hi h bs, fun hi => exec_map_inBuf hi h bs,
    exec_outBuf h bs⟩

/-- Settles O56: only ENCB and DECB read `L` and `R`, and only they have an effect that writes them. -/
theorem dataRegistersMatterOnlyToBlockCommands : Obligations.DataRegistersMatterOnlyToBlockCommands := by
  intro i s w v hencb hdecb
  have not_block : ¬ (i = .encb ∨ i = .decb) := not_or.2 ⟨hencb, hdecb⟩
  obtain ⟨t, h⟩ := exec_next i s
  refine ⟨t, h, exec_map h (fun u => { u with l := w, r := v })
    { ReadsAlike.refl i s with l := fun hi => absurd hi not_block, r := fun hi => absurd hi not_block } fun e he => ?_⟩
  cases e with
  | block p => exact absurd he.1 not_block
  | raise | context | output => rfl

/-- Settles O43: without a context a command reads neither subkeys nor tables, and has no effect but an error, or INIT's new
context. -/
theorem unconfiguredCoreReadsNoContext : Obligations.UnconfiguredCoreReadsNoContext := by
  intro i s k tb hctx
  have not_ready : s.ctx ≠ true := by simp [hctx]
  obtain ⟨e, he, hexec⟩ := exec_effect i s
  have hexec' := hexec { s with k := k, tables := tb }
    { ReadsAlike.refl i s with k := fun _ h => absurd h not_ready, tables := fun _ h => absurd h not_ready }
  refine ⟨_, hexec s (.refl i s), ?_⟩
  cases e with
  | raise => exact .inr hexec'
  | context => exact .inl hexec'
  | block p =>
    obtain ⟨-, hready⟩ := he
    exact absurd hready not_ready
  | output bs draws =>
    obtain ⟨-, hready, -⟩ := he
    exact absurd hready not_ready

/-! ### ERR after a command (R202, R205, R206) -/

/-- R213 read of a command's answer. -/
theorem exec_err {i : Instr} {s t : State} (h : exec i s = .next t) : t.err = reportedCode i s := by
  obtain ⟨u, hexec, herr, -⟩ := endsWith_reportedCode i s
  rw [h, Host.Outcome.next.injEq] at hexec
  rw [hexec, herr]

/-- R206 read of a command's answer. -/
theorem exec_raised {i : Instr} {s t : State} (h : exec i s = .next t) (hne : t.err ≠ 0#8) :
    t = { s with err := t.err, draws := t.draws } := by
  obtain ⟨u, hexec, herr, hframe⟩ := endsWith_reportedCode i s
  rw [h, Host.Outcome.next.injEq] at hexec
  subst hexec
  rw [herr] at hne ⊢
  exact hframe hne

/-- A CMD byte issues a command, or raises `IllegalCommand` (R82, R212). -/
theorem issueCommand_cases (c : Byte) (s : State) :
    (∃ i, c = encode i ∧ issueCommand c s = exec i s) ∨ issueCommand c s = .next (s.setErr 7#8) := by
  obtain ⟨i, hi, hc⟩ | ⟨herr, -⟩ := decode_cases c
  · exact .inl ⟨i, hc, issueCommand_ok hi s⟩
  · exact .inr (issueCommand_error herr s)

/-- Settles O48: `IllegalCommand` changes ERR alone, and for a command this is the rest of its `EndsWith`. -/
theorem errorsChangeNothingButErr : Obligations.ErrorsChangeNothingButErr := by
  intro c s
  obtain ⟨i, -, hissue⟩ | hissue := issueCommand_cases c s
  · obtain ⟨t, h⟩ := exec_next i s
    exact ⟨t, hissue.trans h, exec_raised h⟩
  · exact ⟨_, hissue, fun _ => rfl⟩

/-- R205: the tests of R213 look at the context bit and the three lengths alone. -/
theorem reportedCode_congr (i : Instr) {s s' : State} (hctx : s.ctx = s'.ctx) (hkey : s.keyBuf.length = s'.keyBuf.length)
    (hiv : s.ivBuf.length = s'.ivBuf.length) (hin : s.inBuf.length = s'.inBuf.length) :
    reportedCode i s = reportedCode i s' := by
  simp only [reportedCode, hctx, hkey, hiv, hin]

/-- Settles O50: the code is that of tests on the context bit and the lengths, and the state an error leaves has these as
they were. -/
theorem errorsDependOnLengthsAndRepeat : Obligations.ErrorsDependOnLengthsAndRepeat := by
  refine ⟨fun i s s' t t' hctx hkey hiv hin h h' => ?_, fun i s t h hne => ?_⟩
  · rw [exec_err h, exec_err h', reportedCode_congr i hctx hkey hiv hin]
  · obtain ⟨u, hu⟩ := exec_next i t
    have hframe := exec_raised h hne
    refine ⟨u, hu, ?_⟩
    rw [exec_err hu, exec_err h, hframe]
    exact reportedCode_congr i rfl rfl rfl rfl

/-- Settles O44: the four empty cases, CBCD's chain of tests without the code 2, and that the other three do not read
`IN`. -/
theorem emptyInputIsRaisedOnAnEmptyIn : Obligations.EmptyInputIsRaisedOnAnEmptyIn := by
  refine ⟨fun s hctx hin => ⟨exec_ecbe_empty hctx hin, exec_ecbd_empty hctx hin, exec_cbce_empty hctx hin,
    fun hiv => exec_cbcei_empty hctx hiv hin⟩, fun s t h => ?_, fun i s bs hi => ?_⟩
  · rw [exec_err h, reportedCode]
    split_ifs <;> decide
  · obtain ⟨t, h⟩ := exec_next i s
    exact ⟨t, h, exec_map_inBuf hi h bs⟩

end Sys2Proof.Machine

/-! ### The host's actions, one a step (R20, R24, R27 to R30, R34) -/

namespace Sys2Proof.Machine

/-- Settles O3: the CMD write can always be presented, and issues its byte. -/
theorem stepRunsTheDecodedCommand : Obligations.StepRunsTheDecodedCommand :=
  fun s _ rest hp => ⟨fun _ _ hi => (step_presentable hp rfl).trans (issueCommand_ok hi (s.setPending rest)),
    fun _ he => (step_presentable hp rfl).trans (issueCommand_error he (s.setPending rest))⟩

/-- The CMD write of a command's byte runs the command. -/
theorem step_cmd {s : State} {i : Instr} {rest : List HostAction} (hp : s.pending = .writeCmd (encode i) :: rest) :
    step s = exec i (s.setPending rest) :=
  (step_presentable hp rfl).trans (issueCommand_ok (decode_encode i) _)

/-- Settles O7: both writes can always be presented, and neither has an effect. -/
theorem hostWritesOfStatusAndErrAreIgnored : Obligations.HostWritesOfStatusAndErrAreIgnored := by
  rintro s rest b (hp | hp)
  · exact step_presentable hp rfl
  · exact step_presentable hp rfl

/-- Settles O8: bit by bit over the four values of STATUS (`State.status_eq`). -/
theorem statusBitsViewCtxAndErr : Obligations.StatusBitsViewCtxAndErr := by
  intro s
  have errf_iff : s.errf = true ↔ s.err ≠ 0#8 := by simp
  refine ⟨?_, ?_, fun j hj => ?_⟩
  · rw [State.status_eq]
    cases s.errf <;> cases s.ctx <;> rfl
  · rw [← errf_iff, State.status_eq]
    cases s.errf <;> cases s.ctx <;> decide
  · have small : s.status.toNat < 2 ^ j :=
      calc s.status.toNat < 2 ^ 2 := by rw [State.status_eq]; cases s.errf <;> cases s.ctx <;> decide
        _ ≤ 2 ^ j := Nat.pow_le_pow_right (by decide) hj
    exact Nat.testBit_lt_two_pow small

/-- Settles O9: a read is the write of the model's own `answer`, and its value is `hostRead`'s, name by name. -/
theorem hostReadsAnswerAndChangeNothing : Obligations.HostReadsAnswerAndChangeNothing :=
  fun _ _ _ hp => ⟨step_presentable hp rfl, rfl, rfl, rfl, rfl, rfl, rfl, rfl, rfl, rfl, rfl, rfl, rfl, rfl⟩

/-- Settles O11: the state after reset is built from the parameters and the model's own fields alone. -/
theorem nothingOfTheCoreSurvivesReset : Obligations.NothingOfTheCoreSurvivesReset := by
  intro s s' rest hp hp' hparams hdraws hanswer
  refine ⟨_, step_reset hp, (step_reset hp').trans ?_⟩
  simp [resetCore, hparams, hdraws, hanswer]

theorem fits_some (n c : Nat) : fits n (some c) = true ↔ n ≤ c := decide_eq_true_iff

/-- Settles O6: a write within the capacity can be presented and replaces what it names; one past it cannot. -/
theorem hostWritesReplaceWhatTheyName : Obligations.HostWritesReplaceWhatTheyName := by
  intro s rest bs w
  refine ⟨fun hp hle => step_presentable hp ((fits_some _ _).2 hle),
    fun hp hle => step_presentable hp ((fits_some _ _).2 hle), fun hp hle => step_presentable hp ?_,
    fun hp => step_presentable hp rfl, fun hp => step_presentable hp rfl,
    fun hp hlt => step_overlong hp (decide_eq_false hlt.not_ge),
    fun hp hlt => step_overlong hp (decide_eq_false hlt.not_ge), fun m hp hm hlt => step_overlong hp ?_⟩
  · rw [HostAction.presentable]
    cases hm : s.params.maxLen with
    | none => rfl
    | some m => exact (fits_some _ _).2 (hle m hm)
  · rw [HostAction.presentable, hm]
    exact decide_eq_false hlt.not_ge

end Sys2Proof.Machine

/-! ### Whole steps: what every action answers, keeps and changes -/

namespace Sys2Proof.Machine

/-- No command takes an action off the host's list. -/
theorem Effect.apply_pending (e : Effect) (s : State) : (e.apply s).pending = s.pending := by cases e <;> rfl

/-- No command changes the parameters (R22). -/
theorem Effect.apply_params (e : Effect) (s : State) : (e.apply s).params = s.params := by cases e <;> rfl

/-- A CMD byte answers a next state, by an effect of the command it issues or as an illegal command. -/
theorem issueCommand_effect (c : Byte) (s : State) : ∃ e : Effect, issueCommand c s = .next (e.apply s) ∧
    ((∃ i, c = encode i ∧ e.Possible i s) ∨ e = .raise 7#8 0) := by
  obtain ⟨i, hc, hissue⟩ | hissue := issueCommand_cases c s
  · obtain ⟨e, he, hexec⟩ := exec_effect i s
    exact ⟨e, hissue.trans (hexec s (.refl i s)), .inl ⟨i, hc, he⟩⟩
  · exact ⟨.raise 7#8 0, hissue, .inr rfl⟩

/-- Every action that can be presented answers a next state, with the list of actions to come and the parameters as they
were. -/
theorem hostEffect_next (a : HostAction) (s : State) :
    ∃ t, hostEffect a s = .next t ∧ t.pending = s.pending ∧ t.params = s.params := by
  cases a with
  | writeCmd c =>
    obtain ⟨e, h, -⟩ := issueCommand_effect c s
    exact ⟨_, h, e.apply_pending s, e.apply_params s⟩
  | reset | writeKey | writeIv | writeIn | writeL | writeR | writeStatus | writeErr | read => exact ⟨_, rfl, rfl, rfl⟩

/-- Settles O5: the three outcomes of a step, by its oldest action. -/
theorem everyStepTakesOneHostAction : Obligations.EveryStepTakesOneHostAction := by
  refine fun s => ⟨fun a rest hp ha => ?_, fun a rest hp ha => step_overlong hp ha, step_waiting⟩
  obtain ⟨t, ht, hpending, -⟩ := hostEffect_next a (s.setPending rest)
  exact ⟨t, (step_presentable hp ha).trans ht, hpending⟩

/-- R22: no step changes the parameters. -/
theorem step_params {s t : State} (h : step s = .next t) : t.params = s.params := by
  obtain ⟨-, rfl⟩ | ⟨a, rest, -, -, heffect⟩ := step_cases h
  · rfl
  · obtain ⟨u, hu, -, hparams⟩ := hostEffect_next a (s.setPending rest)
    rw [heffect, Host.Outcome.next.injEq] at hu
    rw [hu, hparams, State.setPending_params]

/-- Settles O59: a step keeps the parameters, and they pass through every command but INIT, which alone reads them. -/
theorem parametersAreConstantAndReadByInitAlone : Obligations.ParametersAreConstantAndReadByInitAlone := by
  refine ⟨fun s t => step_params, fun i s p hi => ?_⟩
  obtain ⟨t, h⟩ := exec_next i s
  exact ⟨t, h, exec_map h (fun u => { u with params := p })
    { ReadsAlike.refl i s with params := fun hinit => absurd hinit hi } fun e _ => by cases e <;> rfl⟩

/-- A command's effect on the context: none, or that of an INIT with 32 bytes in `KEY`. -/
theorem Effect.Possible.context_cases {e : Effect} {i : Instr} {s : State} (he : e.Possible i s) :
    ((e.apply s).k = s.k ∧ (e.apply s).tables = s.tables ∧ (e.apply s).ctx = s.ctx) ∨
      (i = .init ∧ s.keyBuf.length = 32 ∧ (e.apply s).ctx = true) := by
  cases e with
  | context k tables =>
    obtain ⟨hi, hkey, -⟩ := he
    exact .inr ⟨hi, hkey, rfl⟩
  | raise | block | output => exact .inl ⟨rfl, rfl, rfl⟩

/-- Settles O19: an action other than reset and a CMD write leaves the context, and of the commands only INIT has an effect
on it. -/
theorem onlyResetAndInitChangeTheContext : Obligations.OnlyResetAndInitChangeTheContext := by
  intro s t h hchange
  have changed : ¬ (t.k = s.k ∧ t.tables = s.tables ∧ t.ctx = s.ctx) := by tauto
  obtain ⟨-, rfl⟩ | ⟨a, rest, hp, -, heffect⟩ := step_cases h
  · exact absurd ⟨rfl, rfl, rfl⟩ changed
  cases a with
  | reset =>
    rw [hostEffect, Host.Outcome.next.injEq] at heffect
    exact .inl ⟨rest, hp, heffect ▸ rfl⟩
  | writeCmd c =>
    obtain ⟨e, hissue, he⟩ := issueCommand_effect c (s.setPending rest)
    rw [hostEffect, hissue, Host.Outcome.next.injEq] at heffect
    subst heffect
    obtain ⟨i, rfl, he⟩ | rfl := he
    · obtain hsame | ⟨rfl, hkey, hready⟩ := he.context_cases
      · exact absurd hsame changed
      · exact .inr ⟨rest, hp, hkey, hready⟩
    · exact absurd ⟨rfl, rfl, rfl⟩ changed
  | writeKey | writeIv | writeIn | writeL | writeR | writeStatus | writeErr | read =>
    rw [hostEffect, Host.Outcome.next.injEq] at heffect
    exact absurd (heffect ▸ ⟨rfl, rfl, rfl⟩) changed

end Sys2Proof.Machine

/-! ### Runs of host actions: the boot sequence and the pseudo instructions (R93, R94, R232) -/

namespace Sys2Proof.Machine

/-- A run of a positive number of steps goes on from where its first step leads. -/
theorem run_succ {s t : State} (h : step s = .next t) (n : Nat) : core.run (n + 1) s = core.run n t := by
  simp only [Host.Core.run]
  rw [show core.step s = .next t from h]

/-- A refused first step ends a run. -/
theorem run_succ_refused {s : State} {r : Refusal} (h : step s = .refused r) (n : Nat) :
    core.run (n + 1) s = .refused r := by
  simp only [Host.Core.run]
  rw [show core.step s = .refused r from h]

theorem run_one (s : State) : core.run 1 s = step s := by
  change core.run 1 s = core.step s
  simp only [Host.Core.run]
  cases core.step s <;> rfl

/-- The write of a key that fits and INIT: the key is in `KEY`, and the run ends as INIT does on it. -/
theorem run_writeKey_init {s : State} {key : List Byte} {rest : List HostAction}
    (hp : s.pending = .writeKey key :: .writeCmd (encode .init) :: rest) (hfits : key.length ≤ s.params.keyCap) :
    core.run 2 s = exec .init ((s.setKey key).setPending rest) := by
  rw [run_succ (step_presentable hp ((fits_some _ _).2 hfits)), run_one]
  exact step_cmd rfl

/-- The same with a key of 32 bytes: READY, without an error. -/
theorem run_writeKey_init_ready {s : State} {key : List Byte} {rest : List HostAction}
    (hp : s.pending = .writeKey key :: .writeCmd (encode .init) :: rest) (hfits : key.length ≤ s.params.keyCap)
    (hkey : key.length = 32) : ∃ t : State, core.run 2 s = .next t ∧ t.ctx = true ∧ t.err = 0#8 ∧ t.keyBuf = key ∧
      t.pending = rest := by
  obtain ⟨v, -, hexec⟩ := exec_init_ready (s := (s.setKey key).setPending rest) hkey
  exact ⟨_, (run_writeKey_init hp hfits).trans hexec, rfl, rfl, rfl, rfl⟩

/-- R27: STATUS of a READY core without an error. -/
theorem status_ready {s : State} (hctx : s.ctx = true) (herr : s.err = 0#8) : s.status = 1#8 := by
  simp [State.status_eq, hctx, herr]

/-- Settles O12: reset keeps the parameters, whose `KEY_CAP` is at least 32 (R8), and INIT finds them in `KEY`. -/
theorem bootSequenceMakesTheCoreReady : Obligations.BootSequenceMakesTheCoreReady := by
  intro s key rest hadm hkey hp
  have hfits : key.length ≤ s.params.keyCap := hkey ▸ hadm.key_cap
  obtain ⟨t, hrun, hctx, herr, hbuf, hpending⟩ :=
    run_writeKey_init_ready (s := resetCore (s.setPending _)) rfl hfits hkey
  exact ⟨t, (run_succ (step_reset hp) 2).trans hrun, hctx, herr, status_ready hctx herr, hbuf, hpending⟩

/-- R94 (a): an INITT line whose text fits, to its end. -/
theorem run_initt {s : State} {text : List Byte} (hp : s.pending = programActions [.initt text])
    (hfits : text.length ≤ s.params.keyCap) : ∃ t : State, core.run 2 s = .next t ∧ t.keyBuf = text ∧ t.pending = [] ∧
      (text.length = 32 → t.ctx = true ∧ t.err = 0#8) ∧
      (text.length ≠ 32 → t.ctx = s.ctx ∧ t.k = s.k ∧ t.tables = s.tables ∧ t.err = 1#8) := by
  by_cases hkey : text.length = 32
  · obtain ⟨t, hrun, hctx, herr, hbuf, hpending⟩ := run_writeKey_init_ready hp hfits hkey
    exact ⟨t, hrun, hbuf, hpending, fun _ => ⟨hctx, herr⟩, fun hne => absurd hkey hne⟩
  · exact ⟨_, (run_writeKey_init hp hfits).trans (exec_init_invalidKeySize hkey), rfl, rfl,
      fun heq => absurd heq hkey, fun _ => ⟨rfl, rfl, rfl, rfl⟩⟩

/-- R93: the encoding of a program goes line by line. -/
theorem programEncoding_append (p q : List ProgramLine) :
    programEncoding (p ++ q) = programEncoding p ++ programEncoding q := by
  simp [programEncoding, programActions]

/-- R93: an action other than a CMD write has no byte in the encoding. -/
theorem programEncoding_act {a : HostAction} (ha : ∀ c, a ≠ .writeCmd c) : programEncoding [.act a] = [] := by
  cases a with
  | writeCmd c => exact absurd rfl (ha c)
  | reset | writeKey | writeIv | writeIn | writeL | writeR | writeStatus | writeErr | read => rfl

/-- Settles O13: INITT in its three cases, RELEASE, and the encoding of each kind of line. -/
theorem pseudoInstructionsExpand : Obligations.PseudoInstructionsExpand := by
  refine ⟨fun s text => run_initt, fun s text hp hlong => ?_, fun s => step_reset, rfl, programEncoding_append,
    fun _ => rfl, fun _ => rfl, fun _ => programEncoding_act, fun _ => rfl, rfl⟩
  exact run_succ_refused (step_overlong hp (decide_eq_false hlong.not_ge)) 1

end Sys2Proof.Machine

/-! ### The promises about the state (10_state.md; R7, R8) -/

namespace Sys2Proof.Machine

/-- R7 (a) of the default boxes. -/
theorem sbox_permutes : sbox.allPermutations := by
  unfold Config.SBox.allPermutations Config.Box.isPermutation
  decide +kernel

/-- R7 (b) of the default boxes: S1 and S2, computed. -/
theorem sbox_reproduces : ReproducesBlockVectors sbox := by
  unfold ReproducesBlockVectors
  decide +kernel

/-- The default core is one the spec allows (R7, R8). -/
theorem admissible_defaultParams : Admissible defaultParams :=
  ⟨sbox_permutes, sbox_reproduces, by decide, by decide, fun _ h => nomatch h⟩

theorem fits_zero (c : Option Nat) : fits 0 c = true := by
  cases c with
  | none => rfl
  | some c => exact (fits_some _ _).2 c.zero_le

theorem inv_resetWith {p : Config.Params} (hp : Admissible p) : (State.resetWith p).Inv where
  params_admissible := hp
  err_legal := Nat.zero_le 7
  key_fits := fits_zero _
  iv_fits := fits_zero _
  in_fits := fits_zero _
  out_fits := fits_zero _
  tables_built := fun h => nomatch h
  no_key_material := fun _ => rfl

/-- Settles O57: empty buffers fit every capacity, and without a context the subkeys are zero. -/
theorem resetMeetsTheStatePromises : Obligations.ResetMeetsTheStatePromises :=
  ⟨inv_resetWith admissible_defaultParams, fun _ => inv_resetWith⟩

/-- R8: "`MAX_LEN + 16`, so every result fits". -/
theorem fits_outCap {n m : Nat} {p : Config.Params} (hm : fits m p.maxLen = true) (hn : n ≤ m + 16) :
    fits n (outCap p) = true := by
  unfold outCap
  cases hp : p.maxLen with
  | none => rfl
  | some c =>
    rw [hp, fits_some] at hm
    exact (fits_some _ _).2 (hn.trans (Nat.add_le_add_right hm 16))

/-- An effect of a command keeps the promises: the code is legal, the context is INIT's, the output fits. -/
theorem Effect.Possible.inv {e : Effect} {i : Instr} {s : State} (he : e.Possible i s) (hs : s.Inv) :
    (e.apply s).Inv := by
  cases e with
  | raise code draws =>
    obtain ⟨-, hlegal, -⟩ := he
    exact { hs with err_legal := hlegal }
  | context k tables =>
    obtain ⟨-, -, rfl⟩ := he
    exact { hs with err_legal := Nat.zero_le 7, tables_built := fun _ => rfl, no_key_material := fun h => nomatch h }
  | block p => exact { hs with err_legal := Nat.zero_le 7 }
  | output bs draws =>
    obtain ⟨-, -, hlength, -⟩ := he
    exact { hs with err_legal := Nat.zero_le 7, out_fits := fits_outCap hs.in_fits hlength }

/-- An action that can be presented keeps the promises: a buffer write fits because it can be. -/
theorem hostEffect_inv {a : HostAction} {s t : State} (hs : s.Inv) (ha : a.presentable s.params = true)
    (h : hostEffect a s = .next t) : t.Inv := by
  cases a with
  | writeCmd c =>
    obtain ⟨e, hissue, he⟩ := issueCommand_effect c s
    rw [hostEffect, hissue, Host.Outcome.next.injEq] at h
    subst h
    obtain ⟨i, -, he⟩ | rfl := he
    · exact he.inv hs
    · exact { hs with err_legal := le_rfl }
  | reset => obtain rfl := Host.Outcome.next.inj h; exact { inv_resetWith hs.params_admissible with }
  | writeKey bs => obtain rfl := Host.Outcome.next.inj h; exact { hs with key_fits := ha }
  | writeIv bs => obtain rfl := Host.Outcome.next.inj h; exact { hs with iv_fits := ha }
  | writeIn bs => obtain rfl := Host.Outcome.next.inj h; exact { hs with in_fits := ha }
  | writeL | writeR | writeStatus | writeErr | read => obtain rfl := Host.Outcome.next.inj h; exact { hs with }

/-- Settles O58: a step waits, or takes an action that can be presented off the list and has its effect. -/
theorem everyStepKeepsTheStatePromises : Obligations.EveryStepKeepsTheStatePromises := by
  intro s t hs h
  obtain ⟨-, rfl⟩ | ⟨a, rest, -, ha, heffect⟩ := step_cases h
  · exact hs
  · exact hostEffect_inv (s := s.setPending rest) { hs with } ha heffect

end Sys2Proof.Machine

/-! ### Tables of permutations, and F on them (R7, R112, R130) -/

namespace Sys2Proof.Machine

/-- R7 (a): every value stands somewhere in a box that is a permutation. -/
theorem boxEntry_surjective {b : Config.Box} (h : Config.Box.isPermutation b) : Function.Surjective (boxEntry b) := by
  intro v
  obtain ⟨i, hi, hv⟩ := Vector.mem_iff_getElem.1 (h v)
  refine ⟨BitVec.ofNat 4 i, ?_⟩
  simp only [boxEntry, BitVec.toNat_ofNat, Nat.mod_eq_of_lt hi, hv]

/-- R112 (c): each byte is the entry of the byte made of the two places where its nibbles stand. -/
theorem tableOf_get_bijective {boxHigh boxLow : Config.Box} (hhigh : Config.Box.isPermutation boxHigh)
    (hlow : Config.Box.isPermutation boxLow) : Function.Bijective (tableOf boxHigh boxLow).get := by
  refine Function.Surjective.bijective_of_finite fun v => ?_
  obtain ⟨h, hh⟩ := boxEntry_surjective hhigh (v.extractLsb' 4 4)
  obtain ⟨l, hl⟩ := boxEntry_surjective hlow (v.extractLsb' 0 4)
  refine ⟨h ++ l, ?_⟩
  rw [tableOf_get, tableEntry_append, hh, hl]
  exact BitVec.extractLsb'_append_extractLsb'

/-- Settles O15: the default boxes computed, and for any permutations each table on its own box pair. -/
theorem tablesOfPermutationsArePermutations : Obligations.TablesOfPermutationsArePermutations := by
  refine ⟨sbox_permutes, fun sb hsb => ?_⟩
  obtain ⟨h1, h2, h3, h4, h5, h6, h7, h8⟩ := hsb
  exact ⟨tableOf_get_bijective h8 h7, tableOf_get_bijective h6 h5, tableOf_get_bijective h4 h3,
    tableOf_get_bijective h2 h1⟩

/-- R11 bit by bit: bit `j` moves up by `n`, and past bit 31 on from bit 0. -/
theorem getLsbD_rotl32 (w : Word) {n j : Nat} (hn : n < 32) (hj : j < 32) :
    (rotl32 w n).getLsbD ((j + n) % 32) = w.getLsbD j := by
  have rotl32_eq : rotl32 w n = w.rotateLeft n := by rw [BitVec.rotateLeft_def, Nat.mod_eq_of_lt hn, rotl32]
  rw [rotl32_eq, BitVec.getLsbD_rotateLeft_of_le hn]
  by_cases hwrap : j + n < 32
  · rw [Nat.mod_eq_of_lt hwrap]
    simp [hwrap]
  · have wrapped : (j + n) % 32 = j + n - 32 := by omega
    have below : j + n - 32 < n := by omega
    rw [wrapped, decide_eq_true below, cond_true]
    congr 1
    omega

theorem rotl32_injective {n : Nat} (hn : n < 32) : Function.Injective (rotl32 · n) := by
  intro w w' h
  apply BitVec.eq_of_getLsbD_eq
  intro j hj
  rw [← getLsbD_rotl32 w hn hj, ← getLsbD_rotl32 w' hn hj]
  exact congrArg (BitVec.getLsbD · _) h

/-- R10 in numbers: the first byte is the most significant. -/
theorem toNat_wordOfBytes (a b c d : Byte) :
    (wordOfBytes a b c d).toNat = 2 ^ 24 * a.toNat + 2 ^ 16 * b.toNat + 2 ^ 8 * c.toNat + d.toNat := by
  simp only [wordOfBytes, toNat_append_eq_add]
  omega

/-- R130 of a word given by its bytes: the four table reads, rotated. -/
theorem roundF_wordOfBytes (t : Tables) (a b c d : Byte) : roundF t (wordOfBytes a b c d) =
    rotl32 (wordOfBytes (t.t1.get a) (t.t2.get b) (t.t3.get c) (t.t4.get d)) 11 := by
  simp [roundF]

/-- Settles O20: `y` is the word of the four table reads, and F is its rotation by 11. -/
theorem roundFunctionReadsTablesAndRotates : Obligations.RoundFunctionReadsTablesAndRotates := by
  refine fun t a b c d => ⟨_, toNat_wordOfBytes .., fun j hj => ?_⟩
  change (roundF t (wordOfBytes a b c d)).getLsbD _ = _
  rw [roundF_wordOfBytes, getLsbD_rotl32 _ (by decide) hj]

theorem wordOfBytes_inj {a b c d a' b' c' d' : Byte} (h : wordOfBytes a b c d = wordOfBytes a' b' c' d') :
    a = a' ∧ b = b' ∧ c = c' ∧ d = d' :=
  ⟨by simpa using congrArg byte3 h, by simpa using congrArg byte2 h, by simpa using congrArg byte1 h,
    by simpa using congrArg byte0 h⟩

/-- Tables without a repeated entry make F injective: the rotation, the word and each read can be undone. -/
theorem roundF_injective {t : Tables} (h1 : Function.Injective t.t1.get) (h2 : Function.Injective t.t2.get)
    (h3 : Function.Injective t.t3.get) (h4 : Function.Injective t.t4.get) : Function.Injective (roundF t) := by
  intro x x' h
  obtain ⟨hb3, hb2, hb1, hb0⟩ := wordOfBytes_inj (rotl32_injective (by decide) h)
  rw [← wordOfBytes_bytes x, ← wordOfBytes_bytes x', h1 hb3, h2 hb2, h3 hb1, h4 hb0]

/-- Settles O21: F is injective on the finitely many words. -/
theorem roundFunctionIsABijection : Obligations.RoundFunctionIsABijection := by
  intro sb hsb
  obtain ⟨ht1, ht2, ht3, ht4⟩ := tablesOfPermutationsArePermutations.2 sb hsb
  exact (roundF_injective ht1.1 ht2.1 ht3.1 ht4.1).bijective_of_finite

end Sys2Proof.Machine

/-! ### The Feistel network: subkey orders and other readings of the rounds (R132, R133, R135) -/

namespace Sys2Proof.Machine

/-- Settles O22: each index lies below 8, so `Fin.ofNat` is a remainder. -/
theorem subkeyOrders : Obligations.SubkeyOrders := by
  refine fun i h1 h32 => ⟨?_, ?_, decSeq_eq_encSeq_reversed h1 h32⟩
  · simp only [encSeq, Fin.ofNat]
    split_ifs <;> omega
  · simp only [decSeq, Fin.ofNat]
    split_ifs <;> omega

/-- Settles O24: the two lemmas of R135 (a). -/
theorem decryptAndEncryptInvertEachOther : Obligations.DecryptAndEncryptInvertEachOther :=
  fun k t p => ⟨decrypt_encrypt k t p, encrypt_decrypt k t p⟩

/-- One round in the source's wording of swapped roles; `swapRound_orient` ties it to `feistelRound`. -/
def swapRound (t : Tables) (sk : Word) (q : Word × Word) : Word × Word := (q.2 ^^^ roundF t (q.1 + sk), q.1)

/-- The pair of halves as that wording holds it in front of round `i`: exchanged in front of the even rounds. -/
def orient (i : Nat) (n : Word × Word) : Word × Word := if i % 2 = 1 then n else n.swap

theorem swapRound_orient (t : Tables) (i : Nat) (sk : Word) (n : Word × Word) :
    swapRound t sk (orient i n) = orient (i + 1) (feistelRound t i sk n) := by
  by_cases hodd : i % 2 = 1
  · have heven : ¬ (i + 1) % 2 = 1 := by omega
    simp [orient, swapRound, feistelRound, hodd, heven]
  · have hodd' : (i + 1) % 2 = 1 := by omega
    simp [orient, swapRound, feistelRound, hodd, hodd']

/-- So after any number of rounds the two wordings hold the same pair, up to that exchange. -/
theorem foldl_swapRound_orient (k : Subkeys) (t : Tables) (seq : Nat → Fin 8) (a n : Nat) (x : Word × Word) :
    (List.range' a n).foldl (fun q i => swapRound t k[seq i] q) (orient a x) =
      orient (a + n) (roundsFrom k t seq a n x) := by
  induction n generalizing a x with
  | zero => rfl
  | succ n ih =>
    rw [List.range'_succ, List.foldl_cons, swapRound_orient, ih, roundsFrom_succ, Nat.add_right_comm, Nat.add_assoc]

/-- Settles O23: after round 32 the wording of swapped roles holds the halves in their own order. -/
theorem encryptSwapsRolesEachRound : Obligations.EncryptSwapsRolesEachRound := by
  intro k t p
  rw [encrypt_eq_roundsFrom]
  exact congrArg Prod.swap (foldl_swapRound_orient k t encSeq 1 32 p).symm

/-- One round of the mirror reading: the odd rounds update the left half. -/
def mirrorRound (t : Tables) (i : Nat) (sk : Word) (n : Word × Word) : Word × Word :=
  if i % 2 = 1 then (n.1 ^^^ roundF t (n.2 + sk), n.2) else (n.1, n.2 ^^^ roundF t (n.1 + sk))

theorem mirrorRound_swap (t : Tables) (i : Nat) (sk : Word) (n : Word × Word) :
    mirrorRound t i sk n.swap = (feistelRound t i sk n).swap := by
  by_cases hodd : i % 2 = 1 <;> simp [mirrorRound, feistelRound, hodd]

/-- Settles O25: round by round the mirror reading computes on exchanged halves what the rounds do. -/
theorem mirrorReadingEncryptsExchangedHalves : Obligations.MirrorReadingEncryptsExchangedHalves := by
  intro k t p
  rw [encrypt_eq_roundsFrom, roundsFrom]
  have hmirror := List.foldl_hom Prod.swap (g₁ := fun n i => feistelRound t i k[encSeq i] n)
    (g₂ := fun n i => mirrorRound t i k[encSeq i] n) (l := List.range' 1 32) (init := p.swap)
    fun n i => mirrorRound_swap t i k[encSeq i] n
  rw [Prod.swap_swap] at hmirror
  exact hmirror

/-- R165 for a block: the byte order and the rounds are undone one after the other. -/
@[simp] theorem decryptBlock_encryptBlock (k : Subkeys) (t : Tables) (x : Block) :
    decryptBlock k t (encryptBlock k t x) = x := by
  rw [encryptBlock, decryptBlock, blockIn_blockOut, decrypt_encrypt, blockOut_blockIn]

/-! ### Known vectors (S1, S2) -/

/-- ENCB on given halves, for a pair known to be their encryption. -/
theorem exec_encb_vector {s : State} {x y : Word × Word} (hctx : s.ctx = true) (herr : s.err = 0#8)
    (hxy : encrypt s.k s.tables x = y) : exec .encb (s.setLR x) = .next (s.setLR y) := by
  rw [exec_encb_ready (s := s.setLR x) hctx hxy]
  change Host.Outcome.next { s.setLR y with err := 0#8 } = _
  rw [← herr]
  rfl

/-- DECB takes such a pair back. -/
theorem exec_decb_vector {s : State} {x y : Word × Word} (hctx : s.ctx = true) (herr : s.err = 0#8)
    (hxy : encrypt s.k s.tables x = y) : exec .decb (s.setLR y) = .next (s.setLR x) := by
  have hyx : decrypt s.k s.tables y = x := by rw [← hxy, decrypt_encrypt]
  rw [exec_decb_ready (s := s.setLR y) hctx hyx]
  change Host.Outcome.next { s.setLR x with err := 0#8 } = _
  rw [← herr]
  rfl

/-- The key of S1: the numbers 0 to 7 as little-endian words. -/
theorem keySchedule_of_s1 {v : Vector Byte 32}
    (hv : v.toList = [0, 0, 0, 0, 1, 0, 0, 0, 2, 0, 0, 0, 3, 0, 0, 0, 4, 0, 0, 0, 5, 0, 0, 0, 6, 0, 0, 0, 7, 0, 0, 0]) :
    keySchedule v = #v[0#32, 1#32, 2#32, 3#32, 4#32, 5#32, 6#32, 7#32] := by
  obtain rfl : v = #v[0, 0, 0, 0, 1, 0, 0, 0, 2, 0, 0, 0, 3, 0, 0, 0, 4, 0, 0, 0, 5, 0, 0, 0, 6, 0, 0, 0, 7, 0, 0, 0] :=
    Vector.toList_inj.1 hv
  decide

/-- INIT with the key of S1: the context R7 (b) speaks of. -/
theorem exec_init_of_s1 {s : State}
    (hkey : s.keyBuf = [0, 0, 0, 0, 1, 0, 0, 0, 2, 0, 0, 0, 3, 0, 0, 0, 4, 0, 0, 0, 5, 0, 0, 0, 6, 0, 0, 0, 7, 0, 0, 0]) :
    ∃ t, exec .init s = .next t ∧ t.k = #v[0#32, 1#32, 2#32, 3#32, 4#32, 5#32, 6#32, 7#32] ∧
      t.tables = tableBuild s.params.sbox ∧ t.ctx = true ∧ t.err = 0#8 := by
  obtain ⟨v, hv, hexec⟩ := exec_init_ready (s := s) (by rw [hkey]; rfl)
  exact ⟨_, hexec, keySchedule_of_s1 (hv.trans hkey), rfl, rfl, rfl⟩

/-- Settles O60: on the context INIT makes, ENCB gives the vectors of R7 (b), and DECB takes them back. -/
theorem allowedBoxesGiveTheKnownVectors : Obligations.AllowedBoxesGiveTheKnownVectors := by
  refine ⟨admissible_defaultParams, fun s _ hvectors hkey => ?_⟩
  obtain ⟨t, hexec, hk, htables, hctx, herr⟩ := exec_init_of_s1 hkey
  rw [ReproducesBlockVectors, ← hk, ← htables] at hvectors
  obtain ⟨hs1, hs2⟩ := hvectors
  have encb_s1 := exec_encb_vector hctx herr hs1
  have encb_s2 := exec_encb_vector hctx herr hs2
  have decb_s1 := exec_decb_vector hctx herr hs1
  have decb_s2 := exec_decb_vector hctx herr hs2
  exact ⟨t, hexec, herr, encb_s1, encb_s2, decb_s1, decb_s2⟩

end Sys2Proof.Machine

/-! ### Round trips of the padding and of both modes (R154, R167, R169, R183, R184, R187) -/

namespace Sys2Proof.Machine

/-- R154: an unaligned sequence is given back, whatever it ends in. -/
theorem strip_alignToBlock_unaligned {p : List Byte} (h : p.length % 8 ≠ 0) : strip (alignToBlock p) = p := by
  rw [alignToBlock_unaligned h, strip_append_marker_zeros]

/-- Settles O30: an aligned sequence has no padding, and Strip cuts at its own last marker, if it ends in one. -/
theorem stripUndoesAlignOutsideTheException : Obligations.StripUndoesAlignOutsideTheException := by
  refine ⟨fun p hno => ?_, fun p pre n haligned hp => ?_⟩
  · by_cases haligned : p.length % 8 = 0
    · rw [alignToBlock_aligned haligned, strip_of_no_marker (hno haligned)]
    · exact strip_alignToBlock_unaligned haligned
  · rw [alignToBlock_aligned haligned, hp, strip_append_marker_zeros]

/-- What R169 and R187 say of a message `p` and what comes back of it. -/
theorem recovered_of_eq_strip_alignToBlock {p q : List Byte} (h : q = strip (alignToBlock p)) :
    ((p.length % 8 = 0 → ∀ pre n, p ≠ pre ++ 0x80#8 :: List.replicate n 0#8) → q = p) ∧
    (∀ pre n, p.length % 8 = 0 → p = pre ++ 0x80#8 :: List.replicate n 0#8 → q = pre) :=
  ⟨fun hno => h.trans (stripUndoesAlignOutsideTheException.1 p hno),
    fun pre n haligned hp => h.trans (stripUndoesAlignOutsideTheException.2 p pre n haligned hp)⟩

/-- The blocks of a padded message are not none unless the message is empty. -/
theorem blocks_ne_nil {bs : List Byte} {ps : List Block} (hbs : bs ≠ []) (hps : alignToBlock bs = joinBlocks ps) :
    ps ≠ [] := by
  rintro rfl
  have hlen := (alignToBlock_length_bounds bs).1
  rw [hps, joinBlocks_nil, List.length_nil, Nat.le_zero, List.length_eq_zero_iff] at hlen
  exact hbs hlen

theorem joinBlocks_ne_nil {xs : List Block} (h : xs ≠ []) : joinBlocks xs ≠ [] := by
  intro hnil
  exact h (joinBlocks_inj (hnil.trans joinBlocks_nil.symm))

/-! ### ECB -/

/-- ECBE that reports success, with the blocks of the padded `IN` named. -/
theorem exec_ecbe_success {s t : State} (h : exec .ecbe s = .next t) (herr : t.err = 0#8) :
    ∃ ps : List Block, alignToBlock s.inBuf = joinBlocks ps ∧
      t.outBuf = joinBlocks (ps.map (encryptBlock s.k s.tables)) := by
  obtain ⟨-, hexec⟩ | ⟨-, -, hexec⟩ | ⟨-, -, ps, hps, hexec⟩ := execEcbe_spec s
  all_goals obtain rfl := Host.Outcome.next.inj (h.symm.trans hexec)
  · simp at herr
  · simp at herr
  · exact ⟨ps, hps, rfl⟩

/-- Settles O33: each ciphertext block is the encryption of the plaintext block at its place. -/
theorem equalBlocksGiveEqualEcbBlocks : Obligations.EqualBlocksGiveEqualEcbBlocks := by
  intro s s' t t' a b hk htables h herr h' herr' _ _ heq
  obtain ⟨ps, hps, hout⟩ := exec_ecbe_success h herr
  obtain ⟨ps', hps', hout'⟩ := exec_ecbe_success h' herr'
  rw [hps, hps', memRead_joinBlocks, memRead_joinBlocks] at heq
  rw [hout, hout', memRead_joinBlocks, memRead_joinBlocks, List.getElem?_map, List.getElem?_map, heq, hk, htables]

/-- ECBD of an encryption with the same context strips the plaintext. -/
theorem exec_ecbd_encrypted {s : State} {ps : List Block} (hctx : s.ctx = true) (hne : ps ≠ [])
    (hin : s.inBuf = joinBlocks (ps.map (encryptBlock s.k s.tables))) :
    exec .ecbd s = .next ((s.setOut (strip (joinBlocks ps))).setErr 0#8) := by
  have hne' : s.inBuf ≠ [] := hin ▸ joinBlocks_ne_nil (by simpa using hne)
  obtain ⟨cs, hcs, hexec⟩ := exec_ecbd_ready hctx hne' (by rw [hin, joinBlocks_length]; omega)
  obtain rfl := joinBlocks_inj (hin.symm.trans hcs)
  have undo : (ps.map (encryptBlock s.k s.tables)).map (decryptBlock s.k s.tables) = ps := by
    simp [Function.comp_def]
  rw [hexec, undo]

/-- Settles O35: ECBD gives the stripped padded plaintext, of which R154 says what it is. -/
theorem ecbRoundTrip : Obligations.EcbRoundTrip := by
  intro s hctx hin
  obtain ⟨ps, hps, hexec⟩ := exec_ecbe_ready hctx hin
  exact ⟨_, _, hexec, exec_ecbd_encrypted hctx (blocks_ne_nil hin hps) rfl, rfl,
    recovered_of_eq_strip_alignToBlock (by rw [hps]; rfl)⟩

/-! ### CBC -/

/-- R187: unchaining undoes chaining, block by block. -/
@[simp] theorem cbcUnchain_cbcChain (k : Subkeys) (t : Tables) (iv : Block) (ps : List Block) :
    cbcUnchain k t iv (cbcChain k t iv ps) = ps := by
  induction ps generalizing iv with
  | nil => rfl
  | cons p ps ih => simp [cbcChain, cbcUnchain, ih]

/-- CBCD of a CBC encryption with the same context strips the plaintext. -/
theorem exec_cbcd_encrypted {s : State} {ps : List Block} {iv : Block} (hctx : s.ctx = true) (hne : ps ≠ [])
    (hin : s.inBuf = cbcEnc s.k s.tables ps iv) :
    exec .cbcd s = .next ((s.setOut (strip (joinBlocks ps))).setErr 0#8) := by
  have hlen : s.inBuf.length = 8 + 8 * ps.length := by rw [hin, cbcEnc_length]
  have hpos : 0 < ps.length := List.length_pos_iff.2 hne
  obtain ⟨iv', cs, hcs, hexec⟩ := exec_cbcd_ready hctx (by omega) (by omega)
  obtain ⟨rfl, rfl⟩ := List.cons.inj (joinBlocks_inj (hin.symm.trans hcs))
  rw [hexec, cbcDec, cbcUnchain_cbcChain]

/-- CBCEI with an 8-byte IV, or CBCE, chains from some IV and changes nothing CBCD reads. -/
theorem exec_cbc_encrypts {s : State} {i : Instr} (hctx : s.ctx = true) (hin : s.inBuf ≠ [])
    (hi : (i = .cbcei ∧ s.ivBuf.length = 8) ∨ i = .cbce) : ∃ (t : State) (iv : Block) (ps : List Block),
      exec i s = .next t ∧ alignToBlock s.inBuf = joinBlocks ps ∧ t.ctx = true ∧
      t.outBuf = cbcEnc t.k t.tables ps iv := by
  obtain ⟨rfl, hlength⟩ | rfl := hi
  · obtain ⟨iv, ps, -, hps, hexec⟩ := exec_cbcei_ready hctx hlength hin
    exact ⟨_, iv, ps, hexec, hps, hctx, rfl⟩
  · obtain ⟨ps, hps, hexec⟩ := exec_cbce_ready hctx hin
    exact ⟨_, s.drawnIv, ps, hexec, hps, hctx, rfl⟩

/-- Settles O40: CBCD gives the stripped padded plaintext, whatever the IV, and R154 says what it is. -/
theorem cbcRoundTrip : Obligations.CbcRoundTrip := by
  intro s i hctx hin hi
  obtain ⟨t, iv, ps, hexec, hps, hready, hout⟩ := exec_cbc_encrypts hctx hin hi
  exact ⟨t, _, hexec, exec_cbcd_encrypted (s := { t with inBuf := t.outBuf }) hready (blocks_ne_nil hin hps) hout, rfl,
    recovered_of_eq_strip_alignToBlock (by rw [hps]; rfl)⟩

/-- Settles O37: as for CBCEI, with the drawn bytes for the IV. -/
theorem cbceChainsFromTheDrawnIv : Obligations.CbceChainsFromTheDrawnIv := by
  intro s hctx hin
  obtain ⟨ps, hps, hexec⟩ := exec_cbce_ready hctx hin
  refine ⟨_, hexec, rfl, ?_⟩
  rw [State.setErr_outBuf, State.setOut_outBuf, hps]
  have length_eq : (cbcEnc s.k s.tables ps s.drawnIv).length = 8 + (joinBlocks ps).length := by
    rw [cbcEnc_length, joinBlocks_length]
  exact ⟨length_eq, cbcEnc_take_iv _ _ ps s.drawnIv, fun b hb => memRead_cbcEnc _ _ ps s.drawnIv hb⟩

/-- Settles O38: both raise `EmptyInput`, or both chain the same blocks from the drawn bytes. -/
theorem cbceIsCbceiWithTheDrawnIv : Obligations.CbceIsCbceiWithTheDrawnIv := by
  intro s hctx
  have hlength : (Config.drawIv s.draws).toList.length = 8 := Vector.length_toList
  by_cases hin : s.inBuf = []
  · exact ⟨_, exec_cbcei_empty hctx hlength hin, exec_cbce_empty hctx hin⟩
  · obtain ⟨iv, ps, hiv, hps, hexec⟩ :=
      exec_cbcei_ready (s := { s with ivBuf := (Config.drawIv s.draws).toList }) hctx hlength hin
    obtain ⟨ps', hps', hexec'⟩ := exec_cbce_ready hctx hin
    obtain rfl := Vector.toList_inj.1 hiv
    obtain rfl := joinBlocks_inj (hps.symm.trans hps')
    exact ⟨_, hexec, hexec'⟩

/-- Settles O41: exclusive or with the zero IV leaves the first plaintext block, which both then encrypt. -/
theorem zeroIvFirstBlockIsTheEcbBlock : Obligations.ZeroIvFirstBlockIsTheEcbBlock := by
  intro s t u hctx hin hiv ht hu
  obtain ⟨iv, ps, hiv', hps, hcbc⟩ := exec_cbcei_ready hctx (by rw [hiv]; rfl) hin
  obtain ⟨ps', hps', hecb⟩ := exec_ecbe_ready hctx hin
  obtain rfl := joinBlocks_inj (hps.symm.trans hps')
  obtain rfl := Host.Outcome.next.inj (ht.symm.trans hcbc)
  obtain rfl := Host.Outcome.next.inj (hu.symm.trans hecb)
  obtain rfl : iv = Vector.replicate 8 0#8 := Vector.toList_inj.1 (hiv'.trans hiv)
  simp only [State.setErr_outBuf, State.setOut_outBuf]
  rw [cbcEnc, memRead_joinBlocks_next _ 0, memRead_joinBlocks _ 0]
  cases ps with
  | nil => rfl
  | cons p ps => simp [cbcChain]

/-! ### The order of the block writes (R54, R66) -/

/-- A write over as many bytes as it writes replaces these. -/
theorem memWrite_append (front old new back : List Byte) (hlen : new.length = old.length) :
    memWrite (front ++ (old ++ back)) front.length new = some (front ++ (new ++ back)) := by
  have inside : front.length + new.length ≤ (front ++ (old ++ back)).length := by simp; omega
  have behind : (front ++ (old ++ back)).drop (front.length + new.length) = back := by
    rw [hlen, ← List.append_assoc, ← List.length_append, List.drop_left]
  rw [memWrite, if_pos inside, List.take_left, behind, List.append_assoc]

theorem joinBlocks_append (xs ys : List Block) : joinBlocks (xs ++ ys) = joinBlocks xs ++ joinBlocks ys :=
  List.flatMap_append

/-- A write of a whole block at `8*b` replaces block `b`. -/
theorem memWrite_joinBlocks (xs : List Block) (y : Block) {b : Nat} (hb : b < xs.length) :
    memWrite (joinBlocks xs) (8 * b) y.toList = some (joinBlocks (xs.set b y)) := by
  obtain ⟨front, x, back, rfl, rfl⟩ : ∃ front x back, xs = front ++ x :: back ∧ front.length = b :=
    ⟨xs.take b, xs[b], xs.drop (b + 1), by simp, by simp; omega⟩
  have hwrite := memWrite_append (joinBlocks front) x.toList y.toList (joinBlocks back) (by simp)
  rw [joinBlocks_length] at hwrite
  simpa [joinBlocks_append] using hwrite

/-- One block read from `buf` and its image under `f` written to the same address of `out`. -/
def copyBlock (f : Block → Block) (buf out : List Byte) (b : Nat) : Option (List Byte) :=
  (memRead buf (8 * b) 8).bind fun p => memWrite out (8 * b) (f p).toList

theorem copyBlock_joinBlocks (f : Block → Block) {ps xs : List Block} {b : Nat} (hxs : xs.length = ps.length)
    (hb : b < ps.length) :
    copyBlock f (joinBlocks ps) (joinBlocks xs) b = some (joinBlocks (xs.set b (f ps[b]))) := by
  rw [copyBlock, memRead_joinBlocks, List.getElem?_eq_getElem hb, Option.bind_some, memWrite_joinBlocks _ _ (hxs ▸ hb)]

/-- The blocks named by `order` are written, in whatever order and however often, and every other block is as before. -/
theorem foldlM_copyBlock (f : Block → Block) {ps xs : List Block} {order : List Nat} (hxs : xs.length = ps.length)
    (hin : ∀ b ∈ order, b < ps.length) : ∃ ys : List Block,
      order.foldlM (copyBlock f (joinBlocks ps)) (joinBlocks xs) = some (joinBlocks ys) ∧
      ∀ j : Nat, ys[j]? = if j ∈ order then (ps.map f)[j]? else xs[j]? := by
  induction order generalizing xs with
  | nil => exact ⟨xs, rfl, fun j => by simp⟩
  | cons b order ih =>
    have hb : b < ps.length := hin b List.mem_cons_self
    obtain ⟨ys, hfold, hys⟩ := ih (xs := xs.set b (f ps[b])) (by rw [List.length_set, hxs])
      fun c hc => hin c (List.mem_cons_of_mem b hc)
    refine ⟨ys, ?_, fun j => ?_⟩
    · rw [List.foldlM_cons, copyBlock_joinBlocks f hxs hb]
      exact hfold
    · rw [hys]
      by_cases hj : j ∈ order
      · rw [if_pos hj, if_pos (List.mem_cons_of_mem b hj)]
      · by_cases hjb : j = b
        · subst hjb
          rw [if_neg hj, if_pos List.mem_cons_self]
          simp [hxs, hb]
        · rw [if_neg hj, if_neg (by simp [hj, hjb]), List.getElem?_set_ne (Ne.symm hjb)]

/-- Every block once, in any order: the whole image. -/
theorem foldlM_copyBlock_perm (f : Block → Block) {ps xs : List Block} {order : List Nat} (hxs : xs.length = ps.length)
    (horder : order.Perm (List.range ps.length)) :
    order.foldlM (copyBlock f (joinBlocks ps)) (joinBlocks xs) = some (joinBlocks (ps.map f)) := by
  have mem_iff (j : Nat) : j ∈ order ↔ j < ps.length := by rw [horder.mem_iff, List.mem_range]
  obtain ⟨ys, hfold, hys⟩ := foldlM_copyBlock f hxs fun b hb => (mem_iff b).1 hb
  have image : ys = ps.map f := by
    apply List.ext_getElem?
    intro j
    rw [hys]
    by_cases hj : j < ps.length
    · rw [if_pos ((mem_iff j).2 hj)]
    · rw [if_neg (mt (mem_iff j).1 hj), List.getElem?_eq_none (by omega), List.getElem?_eq_none (by simp; omega)]
  rw [hfold, image]

theorem joinBlocks_replicate (n : Nat) :
    joinBlocks (List.replicate n (Vector.replicate 8 0#8)) = List.replicate (8 * n) 0#8 := by
  induction n with
  | zero => rfl
  | succ n ih =>
    rw [List.replicate_succ, joinBlocks_cons, ih, Vector.toList_replicate, List.replicate_append_replicate,
      Nat.mul_succ, Nat.add_comm]

/-- Settles O34: whatever the order, each block of the padded `IN` is encrypted once to its own place, which gives ECBE's
`OUT`. -/
theorem ecbBlocksMayBeWrittenInAnyOrder : Obligations.EcbBlocksMayBeWrittenInAnyOrder := by
  intro s t order hctx hin h horder
  obtain ⟨ps, hps, hexec⟩ := exec_ecbe_ready hctx hin
  obtain rfl := Host.Outcome.next.inj (h.symm.trans hexec)
  rw [hps, joinBlocks_length, Nat.mul_div_cancel_left _ (by decide)] at horder
  rw [hps, joinBlocks_length, ← joinBlocks_replicate]
  exact foldlM_copyBlock_perm (encryptBlock s.k s.tables) List.length_replicate horder

end Sys2Proof.Machine
